-- ==== Sys2Proof/Word.lean ====
section
/-! DEFINITION. The word types of the model: a data slot, a byte, and one bit per interrupt request input. -/

namespace Sys2Proof

/-- The contents of one 4-byte stack slot, and a register that fits one (00_scope.md R6, 43_stack_loopregs.md R144). -/
abbrev Word := BitVec 32

/-- One byte of data memory. -/
abbrev Byte := BitVec 8

/-- One bit per hardware request input; bit `k` belongs to `irq_inp[k]` (00_scope.md R5, R8). -/
abbrev IrqLines := BitVec 15

end Sys2Proof
end

