-- ==== Sys2Proof/Syntax.lean ====
section
/-! DEFINITION. Instructions and assembly lines: one constructor for each row of spec/opcode_table.json
(30_encoding.md R92), and the line as the unit of execution (R81, R82). -/

namespace Sys2Proof

/-- The operations of 30_encoding.md R92. Operands are held as the text gives them, so that an operand the spec
does not admit is a term that `Instr.defect` refuses by name (R93). A general register is named by a number,
because the source names none (R95, log entry 9). -/
inductive Instr where
  /-- `jp <symbol>`, the symbol resolved to an absolute program memory address (R110). -/
  | jp (target : Nat)
  /-- `sint <uint5>`, the vector address itself (R86, R100). -/
  | sint (v : Nat)
  /-- `nop` (R111). -/
  | nop
  /-- `reti` (R101). -/
  | reti
  /-- `ie = <u1>` (R120). -/
  | ieSet (u : Nat)
  /-- `imsk = <imm15>` (R121). -/
  | imskSet (m : Nat)
  /-- `imsk = <reg>`, the built-in `set_interrupt_mask` (R122). -/
  | setInterruptMask (reg : Nat)
  /-- `<reg> = imsk`, the built-in `get_interrupt_mask` (R123). -/
  | getInterruptMask (reg : Nat)
  /-- `<reg> = irq_stat`, the built-in `get_irq_stat` (R124). -/
  | getIrqStat (reg : Nat)
  /-- `sp += <simm>`, in bytes (R87, R130). -/
  | spAdd (n : Int)
  /-- `sp[<o>] = lcp` (R131). -/
  | stLcp (o : Nat)
  /-- `sp[<o>] = lc` (R132). -/
  | stLc (o : Nat)
  /-- `sp[<o>] = lstk` (R133). -/
  | stLstk (o : Nat)
  /-- `sp[<o>] = lpa` (R134). -/
  | stLpa (o : Nat)
  /-- `sp[<o>] = sr` (R135). -/
  | stSr (o : Nat)
  /-- `sp[<o>] = ilr`, spelling inferred (R136, R96). -/
  | stIlr (o : Nat)
  /-- `lcp = sp[<o>]` (R137). -/
  | ldLcp (o : Nat)
  /-- `lc = sp[<o>]` (R138). -/
  | ldLc (o : Nat)
  /-- `lstk = sp[<o>]` (R139). -/
  | ldLstk (o : Nat)
  /-- `lpa = sp[<o>]` (R140). -/
  | ldLpa (o : Nat)
  /-- `sr = sp[<o>]`, spelling inferred (R141, R96). -/
  | ldSr (o : Nat)
  /-- `ilr = sp[<o>]`, spelling inferred (R142, R96). -/
  | ldIlr (o : Nat)
  /-- `lcp = <imm>` (R143). -/
  | lcpSet (i : Nat)
  /-- `powerdown` (R150). -/
  | powerdown
  deriving DecidableEq, Repr

/-- One row of an assembly listing: one operation, or two joined by `;` (R81, R82). -/
structure Line where
  first  : Instr
  second : Option Instr := none
  deriving DecidableEq, Repr

/-- The operation a line means: `a`, `a ; nop` and `nop ; a` all mean `a`; a line of two operations neither of
which is `nop` has no meaning (R82). -/
def Line.op : Line → Option Instr
  | ⟨a, none⟩ => some a
  | ⟨a, some .nop⟩ => some a
  | ⟨.nop, some b⟩ => some b
  | ⟨_, some _⟩ => none

/-- The line an instruction is written as: `sint` and `reti` with the `nop` every occurrence in the source has,
the others on their own (the "syntax" column of spec/opcode_table.json; R93). -/
def Instr.line : Instr → Line
  | .sint v => ⟨.sint v, some .nop⟩
  | .reti => ⟨.reti, some .nop⟩
  | i => ⟨i, none⟩

/-- A line in program memory with the number of address units it takes there, `size(line)` (R84; log entry 4). -/
structure Placed where
  line : Line
  size : Nat
  deriving DecidableEq, Repr

end Sys2Proof
end

