-- ==== Sys2Proof/Config.lean ====
section
/-! DEFINITION. What the source fixes for every LPDSP32-V3 (00_scope.md R5, R6), the parameters it leaves open
(R7), and the free values. -/

namespace Sys2Proof

/-- `NIRQ`: the hardware request inputs and acknowledge outputs (R5). -/
def Config.nIrq : Nat := 15

/-- `NVEC`: the entries of the vector table (R5). -/
def Config.nVec : Nat := 16

/-- `VEC_STRIDE`: the address units from one vector entry to the next (R5). -/
def Config.vecStride : Nat := 2

/-- `IMSK_RESET` (R5). -/
def Config.imskReset : IrqLines := 0x7FFF

/-- `SLOT`: the bytes a saved register takes on the stack (R6). -/
def Config.slot : Nat := 4

/-- The name of one bit of the status register. The source gives the fields and no position (10_state.md R22). -/
inductive SrBit where
  /-- The interrupt enable bit (R23). -/
  | ie
  /-- Overflow (R24). -/
  | v
  /-- Negative (R24). -/
  | n
  /-- Zero (R24). -/
  | z
  /-- The backup of `ie` in SRME0 (R27). -/
  | ie0
  /-- Member `i` of SRME other than IE (R25). -/
  | other (i : Fin 32)
  /-- The backup of `other i` in SRME0 (R27). -/
  | other0 (i : Fin 32)
  /-- A bit of SR the source does not name (R22). -/
  | rest (i : Fin 32)
  deriving DecidableEq, Repr

/-- `SintReturn`: which address `sint v ; nop` saves, of the two the source leaves open (40_sint_reti.md R100 corner
case 4, D13; log entry 21). -/
inductive SintReturn where
  /-- The address of the line after it, `next(a)`. -/
  | lineAfter
  /-- The address of its own `nop`, `offset` units into the line. -/
  | itsNop (offset : Nat)
  deriving DecidableEq, Repr, Inhabited

/-- The parameters of 00_scope.md R7 that stay OPEN. The spec makes each "a named parameter the model takes as an
argument"; a step's only argument is the state, so the state carries them (`State.par`) and no step changes them
(log entry 3). -/
structure Params where
  /-- `PCW`, the width of PC and ILR. -/
  pcw : Nat
  /-- `AW`, the width of a data memory address and of SP. -/
  aw : Nat
  /-- The width of LCP (43_stack_loopregs.md R144). -/
  lcpW : Nat
  /-- `LOOPREG_W` of LC. -/
  lcW : Nat
  /-- `LOOPREG_W` of LSTK. -/
  lstkW : Nat
  /-- `LOOPREG_W` of LPA. -/
  lpaW : Nat
  /-- The SR bit positions, lowest bit first; its length is `SRW`, and the `other` names in it are `SRME_OTHER`. -/
  srLayout : List SrBit
  /-- `IRQ0_FULL_ENTRY`: whether interrupt 0 performs the whole entry sequence or only PC <- 0. -/
  irq0FullEntry : Bool
  /-- `SintReturn(a)`: the address `sint` saves. -/
  sintReturn : SintReturn
  /-- `SINT_PULSES_IACK`: whether `sint` pulses acknowledge outputs; which, is free (`Config.sintAcks`). -/
  sintPulsesIack : Bool
  /-- `WAKE_NEEDS_ENABLE`: whether only an unmasked and enabled request can wake the core from power-down. -/
  wakeNeedsEnable : Bool
  /-- `DM_ENDIAN`: whether the lowest address of a slot holds its most significant byte. -/
  bigEndian : Bool
  /-- `STACK_LO`: the first byte of the stack region. -/
  stackLo : Nat
  /-- `STACK_HI`: the byte after the last of the stack region. -/
  stackHi : Nat
  deriving DecidableEq, Repr, Inhabited

/-- A layout of SR names each bit once, has the five bits the source names, backs up every member of SRME and
nothing else, and fits one slot (10_state.md R22, R25 to R27). -/
def srLayoutLawful (l : List SrBit) : Bool :=
  decide l.Nodup && decide (l.length ≤ 32) && [SrBit.ie, .v, .n, .z, .ie0].all l.contains &&
    (List.finRange 32).all fun i => l.contains (.other i) == l.contains (.other0 i)

/-- The bounds R7 and 43_stack_loopregs.md R144 put on the open parameters. -/
def Params.lawful (p : Params) : Bool :=
  decide (5 ≤ p.pcw ∧ p.pcw ≤ 32 ∧ p.aw ≤ 32 ∧ 3 ≤ p.lcpW ∧ p.lcpW ≤ 32 ∧ p.lcW ≤ 32 ∧ p.lstkW ≤ 32 ∧ p.lpaW ≤ 32) &&
    srLayoutLawful p.srLayout &&
    decide (p.stackLo % 4 = 0 ∧ p.stackHi % 4 = 0 ∧ p.stackHi ≤ 2 ^ p.aw) && p.sintReturn != .itsNop 0

/-- Some lawful parameters: the narrowest registers the source allows and no stack at all. They stand only where
`Config.anyParams` is unlawful. -/
def Params.least : Params where
  pcw := 5
  aw := 0
  lcpW := 3
  lcW := 0
  lstkW := 0
  lpaW := 0
  srLayout := [.ie, .v, .n, .z, .ie0]
  irq0FullEntry := true
  sintReturn := .lineAfter
  sintPulsesIack := false
  wakeNeedsEnable := true
  bigEndian := false
  stackLo := 0
  stackHi := 0

/-- An implementation's parameters, of which nothing is known. -/
opaque Config.anyParams : Params

/-- The parameters of the machine at hand: open, but within the bounds the spec gives (log entry 3). -/
def Config.params : Params :=
  if Config.anyParams.lawful then Config.anyParams else Params.least

/-- The free value of draw number `n`: the bits of a slot above the width of the register saved in it
(43_stack_loopregs.md R144, 93_implementation_defined.md U22; log entry 8). -/
opaque Config.freeWord (n : Nat) : Word

/-- The free value of draw number `n` that a `sint v` takes: the acknowledge outputs it pulses, any of the fifteen or
none (40_sint_reti.md R100, D14, 93_implementation_defined.md U19; log entry 13). -/
opaque Config.sintAcks (n v : Nat) : IrqLines

end Sys2Proof
end

