-- ==== Sys2Proof/WellFormed.lean ====
section
/-! DEFINITION. Which lines the spec admits to a program, and the name under which each of the others is refused
(30_encoding.md R82, R84, R93; 93_implementation_defined.md U1 to U4, U12). -/

namespace Sys2Proof

/-- Why a line is not admitted to a program. Safe, each of them: the chip may give the form a meaning. -/
inductive Defect where
  /-- `sint` with an odd operand, or one above 30 (R93, U1). -/
  | sintOperandNotVectorAddress
  /-- `ie = u` with `u` neither 0 nor 1 (R93, U4). -/
  | ieOperandNotBit
  /-- `imsk = m` with `m` above 0x7FFF (R93, U4). -/
  | imskOperandTooWide
  /-- `lcp = i` with `i` above 4 (R93, U4). -/
  | lcpOperandAboveFour
  /-- A stack access at an offset that is not a multiple of 4 (R93). -/
  | offsetNotMultipleOfFour
  /-- Two operations neither of which is `nop`: "two-operation line not shown" (R82, U2). -/
  | twoOperationLine
  /-- `sint` without a following `nop` (R93, U3). -/
  | bareSint
  /-- `reti` without a following `nop` (R93, U3). -/
  | bareReti
  /-- A size of 0, or a size other than 2 of `jp <symbol>` or `reti ; nop` (R84). -/
  | sizeNotAdmitted
  /-- Two lines of the program overlap in program memory, or stand out of order (U12). -/
  | overlappingLines
  /-- A line with a unit at or beyond 2^PCW. DESIGN CHOICE (log entry 10): the spec states no such refusal. -/
  | outsideProgramMemory
  deriving DecidableEq, Repr

/-- What is wrong with an operation's operands. -/
def Instr.defect : Instr → Option Defect
  | .sint v => if v % 2 = 0 ∧ v ≤ 30 then none else some .sintOperandNotVectorAddress
  | .ieSet u => if u ≤ 1 then none else some .ieOperandNotBit
  | .imskSet m => if m ≤ 0x7FFF then none else some .imskOperandTooWide
  | .lcpSet i => if i ≤ 4 then none else some .lcpOperandAboveFour
  | .stLcp o | .stLc o | .stLstk o | .stLpa o | .stSr o | .stIlr o
  | .ldLcp o | .ldLc o | .ldLstk o | .ldLpa o | .ldSr o | .ldIlr o =>
    if o % 4 = 0 then none else some .offsetNotMultipleOfFour
  | .jp _ | .nop | .reti | .setInterruptMask _ | .getInterruptMask _ | .getIrqStat _ | .spAdd _ | .powerdown => none

/-- An operation whose operands the spec admits. -/
def Instr.wellFormed (i : Instr) : Bool := i.defect.isNone

/-- What is wrong with a line: its two sides, the `nop` that `sint` and `reti` need after them, its operands. -/
def Line.defect (l : Line) : Option Defect :=
  match l.op with
  | none => some .twoOperationLine
  | some i =>
    match i, l with
    | .sint _, ⟨_, none⟩ | .sint _, ⟨.nop, some _⟩ => some .bareSint
    | .reti, ⟨_, none⟩ | .reti, ⟨.nop, some _⟩ => some .bareReti
    | _, _ => i.defect

/-- The sizes R84 allows a line. -/
def Line.sizeAdmitted (l : Line) (size : Nat) : Bool :=
  match l with
  | ⟨.jp _, none⟩ | ⟨.reti, some .nop⟩ => size == 2
  | _ => decide (1 ≤ size)

/-- What is wrong with a line as placed. A whole program is checked by `programDefect`, in Machine/Ops.lean. -/
def Placed.defect (p : Placed) : Option Defect :=
  match p.line.defect with
  | some d => some d
  | none => if p.line.sizeAdmitted p.size then none else some .sizeNotAdmitted

end Sys2Proof
end

