-- ==== Sys2Proof/Decode.lean ====
section
/-! DEFINITION. From assembly text to a line, and back. The source has no binary encoding at all (30_encoding.md
R80): "`opcode_table.json` ... carries instead `syntax`, the exact text form, which is what a transcriber from
assembly text matches on". So the encoding decoded here is that text, one byte a character (log entry 1). Lexical
rules: R83; forms: R92; the separator: R82. -/

namespace Sys2Proof

/-- The names the source's listings use (R83). -/
inductive Keyword where
  | jp | sint | nop | reti | powerdown
  | ie | imsk | irqStat | sp | lcp | lc | lstk | lpa | sr | ilr
  deriving DecidableEq, Repr

/-- The spelling of each name; the four printed with a capital I for a lower-case l stand after their own
(R83, 90_conflicts.md C4). -/
def keywordTable : List (List Char × Keyword) :=
  [(['j', 'p'], .jp), (['s', 'i', 'n', 't'], .sint), (['n', 'o', 'p'], .nop), (['r', 'e', 't', 'i'], .reti),
   (['p', 'o', 'w', 'e', 'r', 'd', 'o', 'w', 'n'], .powerdown), (['i', 'e'], .ie), (['i', 'm', 's', 'k'], .imsk),
   (['i', 'r', 'q', '_', 's', 't', 'a', 't'], .irqStat), (['s', 'p'], .sp)] ++
  [(['l', 'c', 'p'], .lcp), (['l', 'c'], .lc), (['l', 's', 't', 'k'], .lstk), (['l', 'p', 'a'], .lpa),
   (['s', 'r'], .sr), (['i', 'l', 'r'], .ilr),
   (['I', 'c', 'p'], .lcp), (['I', 'c'], .lc), (['I', 's', 't', 'k'], .lstk), (['I', 'p', 'a'], .lpa)]

/-- The keyword a name is, if it is one. -/
def keywordOf (cs : List Char) : Option Keyword :=
  (keywordTable.find? fun e => e.1 == cs).map (·.2)

/-- The spelling of a keyword. -/
def Keyword.text (k : Keyword) : List Char :=
  ((keywordTable.find? fun e => e.2 == k).map (·.1)).getD []

/-- What a row of a listing is made of. -/
inductive Token where
  | kw (k : Keyword)
  /-- A symbol for the linker (R83, R89). -/
  | sym (cs : List Char)
  | num (n : Nat)
  /-- `;`, or the `:` three rows of the source print for it (R82, C4). -/
  | semi
  | eq
  | plusEq
  | minus
  | lbrack
  | rbrack
  /-- `<` and `>` stand around the number of a general register: the spec writes `<reg>` and no name (R95). -/
  | lt
  | gt
  deriving DecidableEq, Repr

/-- Why a text is not a line. -/
inductive DecodeError where
  /-- A character, number or comment the lexical rules (R83) do not have. -/
  | unreadableText
  /-- No form of R92 has this text. -/
  | unknownForm
  /-- `jp` to a symbol the linker's table does not hold (R89). -/
  | unknownSymbol
  /-- More than one separator on a row (R82). -/
  | moreThanTwoOperations
  deriving DecidableEq, Repr

/-- The outcome of decoding a text. -/
inductive Decoded where
  | line (l : Line)
  | rejected (e : DecodeError)
  deriving DecidableEq, Repr

/-! ## Characters to tokens -/

/-- A space. DESIGN CHOICE (log entry 20): so are the tab, the line breaks and the zero byte. R83 does not say which
characters are blank, and R81 has a line be one row; here a text broken over rows reads as one line. -/
def isSpace (c : Char) : Bool := c.toNat == 32 || c.toNat == 9 || c.toNat == 10 || c.toNat == 13 || c.toNat == 0

def isDigit (c : Char) : Bool := decide (48 ≤ c.toNat ∧ c.toNat ≤ 57)

def isLetter (c : Char) : Bool :=
  decide (97 ≤ c.toNat ∧ c.toNat ≤ 122) || decide (65 ≤ c.toNat ∧ c.toNat ≤ 90) || c.toNat == 95

/-- The value of a decimal digit. -/
def digitVal (c : Char) : Nat := c.toNat - 48

/-- The value of a hexadecimal digit, in either case (DESIGN CHOICE, log entry 20). -/
def hexVal (c : Char) : Option Nat :=
  if isDigit c then some (digitVal c)
  else if 97 ≤ c.toNat ∧ c.toNat ≤ 102 then some (c.toNat - 87)
  else if 65 ≤ c.toNat ∧ c.toNat ≤ 70 then some (c.toNat - 55)
  else none

/-- Where the lexer stands inside a row. -/
inductive LexState where
  | idle
  /-- Inside a name, its characters so far, last first. -/
  | word (acc : List Char)
  /-- After a number's leading `0`, which `x` may follow. -/
  | zero
  | dec (n : Nat)
  | hexStart
  | hex (n : Nat)
  /-- After `+`, which `=` must follow. -/
  | plus
  | slash
  | lineComment
  | blockComment
  | blockStar
  deriving DecidableEq, Repr

/-- A name as a token. DESIGN CHOICE (log entry 20): a name spelled like a mnemonic or a register, in either spelling of
`keywordTable`, is that keyword and never a symbol, so that `jp lc` is no form. R83 has symbols be C-style identifiers
and reserves no name. -/
def wordToken (cs : List Char) : Token :=
  match keywordOf cs with
  | some k => .kw k
  | none => .sym cs

/-- The punctuation that is a token by itself. -/
def punctuation (c : Char) : Option Token :=
  if c = ';' ∨ c = ':' then some .semi
  else if c = '=' then some .eq
  else if c = '-' then some .minus
  else if c = '[' then some .lbrack
  else if c = ']' then some .rbrack
  else if c = '<' then some .lt
  else if c = '>' then some .gt
  else none

/-- A character between tokens: the tokens it ends, and where the lexer stands after it. -/
def lexStart (c : Char) : Option (List Token × LexState) :=
  if isSpace c then some ([], .idle)
  else if isLetter c then some ([], .word [c])
  else if c = '0' then some ([], .zero)
  else if isDigit c then some ([], .dec (digitVal c))
  else if c = '+' then some ([], .plus)
  else if c = '/' then some ([], .slash)
  else (punctuation c).map fun t => ([t], .idle)

/-- A character that ends token `t`. -/
def lexAfter (t : Token) (c : Char) : Option (List Token × LexState) :=
  (lexStart c).map fun r => (t :: r.1, r.2)

/-- One character: the tokens it completes and the new state; none for a text outside R83. DESIGN CHOICE (log entry 20):
spaces between tokens are free, a comment parts two names as a space does, block comments do not nest, and a letter may
not follow a number at once. -/
def lexStep (st : LexState) (c : Char) : Option (List Token × LexState) :=
  match st with
  | .idle => lexStart c
  | .word acc =>
    if isLetter c || isDigit c then some ([], .word (c :: acc)) else lexAfter (wordToken acc.reverse) c
  | .zero =>
    if c = 'x' then some ([], .hexStart)
    else if isDigit c then some ([], .dec (digitVal c))
    else if isLetter c then none
    else lexAfter (.num 0) c
  | .dec n =>
    if isDigit c then some ([], .dec (10 * n + digitVal c))
    else if isLetter c then none
    else lexAfter (.num n) c
  | .hexStart => (hexVal c).map fun d => ([], .hex d)
  | .hex n =>
    match hexVal c with
    | some d => some ([], .hex (16 * n + d))
    | none => if isLetter c then none else lexAfter (.num n) c
  | .plus => if c = '=' then some ([.plusEq], .idle) else none
  | .slash =>
    if c = '/' then some ([], .lineComment) else if c = '*' then some ([], .blockComment) else none
  | .lineComment => some ([], if c.toNat = 10 then .idle else .lineComment)
  | .blockComment => some ([], if c = '*' then .blockStar else .blockComment)
  | .blockStar => some ([], if c = '/' then .idle else if c = '*' then .blockStar else .blockComment)

/-- The token a row's end completes. -/
def lexEnd : LexState → Option (List Token)
  | .idle | .lineComment => some []
  | .word acc => some [wordToken acc.reverse]
  | .zero => some [.num 0]
  | .dec n | .hex n => some [.num n]
  | .hexStart | .plus | .slash | .blockComment | .blockStar => none

/-- The tokens of a text read from state `st`. -/
def lexFrom : LexState → List Char → Option (List Token)
  | st, [] => lexEnd st
  | st, c :: cs =>
    match lexStep st c with
    | none => none
    | some (ts, st') => (lexFrom st' cs).map (ts ++ ·)

/-- The tokens of a row. -/
def lex (cs : List Char) : Option (List Token) := lexFrom .idle cs

/-! ## Tokens to a line -/

/-- The linker's symbol table: the address of each text symbol (R89). -/
abbrev Symbols := List (List Char × Nat)

/-- The outcome of reading one operation. -/
inductive ParsedOp where
  | op (i : Instr)
  | rejected (e : DecodeError)
  deriving DecidableEq, Repr

/-- One operation: the "syntax" column of spec/opcode_table.json (R92). -/
def parseOp (syms : Symbols) : List Token → ParsedOp
  | [.kw .jp, .num t] => .op (.jp t)
  | [.kw .jp, .sym s] =>
    match syms.find? fun e => e.1 == s with
    | some e => .op (.jp e.2)
    | none => .rejected .unknownSymbol
  | [.kw .sint, .num v] => .op (.sint v)
  | [.kw .nop] => .op .nop
  | [.kw .reti] => .op .reti
  | [.kw .ie, .eq, .num u] => .op (.ieSet u)
  | [.kw .imsk, .eq, .num m] => .op (.imskSet m)
  | [.kw .imsk, .eq, .lt, .num r, .gt] => .op (.setInterruptMask r)
  | [.lt, .num r, .gt, .eq, .kw .imsk] => .op (.getInterruptMask r)
  | [.lt, .num r, .gt, .eq, .kw .irqStat] => .op (.getIrqStat r)
  | [.kw .sp, .plusEq, .num n] => .op (.spAdd n)
  | [.kw .sp, .plusEq, .minus, .num n] => .op (.spAdd (-(n : Int)))
  | [.kw .sp, .lbrack, .num o, .rbrack, .eq, .kw .lcp] => .op (.stLcp o)
  | [.kw .sp, .lbrack, .num o, .rbrack, .eq, .kw .lc] => .op (.stLc o)
  | [.kw .sp, .lbrack, .num o, .rbrack, .eq, .kw .lstk] => .op (.stLstk o)
  | [.kw .sp, .lbrack, .num o, .rbrack, .eq, .kw .lpa] => .op (.stLpa o)
  | [.kw .sp, .lbrack, .num o, .rbrack, .eq, .kw .sr] => .op (.stSr o)
  | [.kw .sp, .lbrack, .num o, .rbrack, .eq, .kw .ilr] => .op (.stIlr o)
  | [.kw .lcp, .eq, .kw .sp, .lbrack, .num o, .rbrack] => .op (.ldLcp o)
  | [.kw .lc, .eq, .kw .sp, .lbrack, .num o, .rbrack] => .op (.ldLc o)
  | [.kw .lstk, .eq, .kw .sp, .lbrack, .num o, .rbrack] => .op (.ldLstk o)
  | [.kw .lpa, .eq, .kw .sp, .lbrack, .num o, .rbrack] => .op (.ldLpa o)
  | [.kw .sr, .eq, .kw .sp, .lbrack, .num o, .rbrack] => .op (.ldSr o)
  | [.kw .ilr, .eq, .kw .sp, .lbrack, .num o, .rbrack] => .op (.ldIlr o)
  | [.kw .lcp, .eq, .num i] => .op (.lcpSet i)
  | [.kw .powerdown] => .op .powerdown
  | _ => .rejected .unknownForm

/-- The tokens before the first separator, and those after it if there is one. -/
def splitSemi : List Token → List Token × Option (List Token)
  | [] => ([], none)
  | .semi :: ts => ([], some ts)
  | t :: ts => (t :: (splitSemi ts).1, (splitSemi ts).2)

/-- A row of tokens: one operation, or two joined by one separator (R81, R82). -/
def parseLine (syms : Symbols) (ts : List Token) : Decoded :=
  match splitSemi ts with
  | (l, none) =>
    match parseOp syms l with
    | .op i => .line ⟨i, none⟩
    | .rejected e => .rejected e
  | (l, some r) =>
    if .semi ∈ r then .rejected .moreThanTwoOperations
    else
      match parseOp syms l, parseOp syms r with
      | .op i, .op j => .line ⟨i, some j⟩
      | .rejected e, _ => .rejected e
      | _, .rejected e => .rejected e

/-- The characters of a text held as bytes. -/
def charsOf (bs : List Byte) : List Char := bs.map fun b => Char.ofNat b.toNat

/-- The bytes of a text. -/
def bytesOf (cs : List Char) : List Byte := cs.map fun c => BitVec.ofNat 8 c.toNat

/-- The line a row of text is, with the linker's symbols. Total; what is no line is rejected by name. -/
def decodeWith (syms : Symbols) (bs : List Byte) : Decoded :=
  match lex (charsOf bs) with
  | some ts => parseLine syms ts
  | none => .rejected .unreadableText

/-- The line a linked row of text is: a jump's target is written as its address (log entry 1). -/
def decode (bs : List Byte) : Decoded := decodeWith [] bs

/-! ## The encoder -/

/-- The character of a decimal digit. -/
def digitChar (d : Nat) : Char := Char.ofNat (48 + d % 10)

/-- The decimal digits of `n`, at most `fuel` of them. -/
def decimalDigits : Nat → Nat → List Char
  | 0, _ => []
  | fuel + 1, n => if n < 10 then [digitChar n] else decimalDigits fuel (n / 10) ++ [digitChar (n % 10)]

/-- A number in decimal, as the listings write offsets and increments (R83, R87). -/
def decimal (n : Nat) : List Char := decimalDigits (n + 1) n

/-- The tokens of an operation, by the "syntax" column of spec/opcode_table.json (R92). -/
def Instr.tokens : Instr → List Token
  | .jp t => [.kw .jp, .num t]
  | .sint v => [.kw .sint, .num v]
  | .nop => [.kw .nop]
  | .reti => [.kw .reti]
  | .ieSet u => [.kw .ie, .eq, .num u]
  | .imskSet m => [.kw .imsk, .eq, .num m]
  | .setInterruptMask r => [.kw .imsk, .eq, .lt, .num r, .gt]
  | .getInterruptMask r => [.lt, .num r, .gt, .eq, .kw .imsk]
  | .getIrqStat r => [.lt, .num r, .gt, .eq, .kw .irqStat]
  | .spAdd n => if n < 0 then [.kw .sp, .plusEq, .minus, .num n.natAbs] else [.kw .sp, .plusEq, .num n.natAbs]
  | .stLcp o => [.kw .sp, .lbrack, .num o, .rbrack, .eq, .kw .lcp]
  | .stLc o => [.kw .sp, .lbrack, .num o, .rbrack, .eq, .kw .lc]
  | .stLstk o => [.kw .sp, .lbrack, .num o, .rbrack, .eq, .kw .lstk]
  | .stLpa o => [.kw .sp, .lbrack, .num o, .rbrack, .eq, .kw .lpa]
  | .stSr o => [.kw .sp, .lbrack, .num o, .rbrack, .eq, .kw .sr]
  | .stIlr o => [.kw .sp, .lbrack, .num o, .rbrack, .eq, .kw .ilr]
  | .ldLcp o => [.kw .lcp, .eq, .kw .sp, .lbrack, .num o, .rbrack]
  | .ldLc o => [.kw .lc, .eq, .kw .sp, .lbrack, .num o, .rbrack]
  | .ldLstk o => [.kw .lstk, .eq, .kw .sp, .lbrack, .num o, .rbrack]
  | .ldLpa o => [.kw .lpa, .eq, .kw .sp, .lbrack, .num o, .rbrack]
  | .ldSr o => [.kw .sr, .eq, .kw .sp, .lbrack, .num o, .rbrack]
  | .ldIlr o => [.kw .ilr, .eq, .kw .sp, .lbrack, .num o, .rbrack]
  | .lcpSet i => [.kw .lcp, .eq, .num i]
  | .powerdown => [.kw .powerdown]

/-- The tokens of a line. -/
def Line.tokens : Line → List Token
  | ⟨a, none⟩ => a.tokens
  | ⟨a, some b⟩ => a.tokens ++ .semi :: b.tokens

/-- A token's own characters. -/
def Token.text : Token → List Char
  | .kw k => k.text
  | .sym cs => cs
  | .num n => decimal n
  | .semi => [';']
  | .eq => ['=']
  | .plusEq => ['+', '=']
  | .minus => ['-']
  | .lbrack => ['[']
  | .rbrack => [']']
  | .lt => ['<']
  | .gt => ['>']

/-- The neighbours the source writes without a space between them: `sp[4]`, `-56`, `<5>`. -/
def tightPair (a b : Token) : Bool :=
  a == .lbrack || a == .minus || a == .lt || b == .lbrack || b == .rbrack || b == .gt

/-- The text of a row of tokens. -/
def tokensText : List Token → List Char
  | [] => []
  | [t] => t.text
  | a :: b :: ts => a.text ++ (if tightPair a b then [] else [' ']) ++ tokensText (b :: ts)

/-- The text of a line, as bytes. -/
def encodeLine (l : Line) : List Byte := bytesOf (tokensText l.tokens)

/-- The text of the line an instruction is written as. -/
def encode (i : Instr) : List Byte := encodeLine i.line

/-! ## Numbered bits (for the host) -/

/-- The `k` bytes of `w`, lowest first. -/
def wordBytes : Nat → Nat → List Byte
  | 0, _ => []
  | k + 1, w => BitVec.ofNat 8 (w % 256) :: wordBytes k (w / 256)

/-- What becomes of a text offered to a program. -/
inductive Admission where
  | line (l : Line)
  /-- A line the spec refuses, under the defect's name (R93). -/
  | refused (d : Defect)
  /-- No line at all. -/
  | rejected (e : DecodeError)
  deriving DecidableEq, Repr

/-- A text admitted as a line of a program, or turned away by name (R93). -/
def admitText (bs : List Byte) : Admission :=
  match decode bs with
  | .rejected e => .rejected e
  | .line l =>
    match l.defect with
    | none => .line l
    | some d => .refused d

/-- The line the text in `nbits` bits is, byte 0 its first character (log entry 1); `admitText` names why it is none. -/
def decodeTableLine (nbits w : Nat) : Option Line :=
  match admitText (wordBytes ((nbits + 7) / 8) w) with
  | .line l => some l
  | .refused _ | .rejected _ => none

/-- The instruction the decoder reads from bits `w`, numbered as the table would number them. The table gives its
rows no bits (R80), so the bits are those of the line's text. -/
def decodeTableWord (nbits w : Nat) : Option Instr := (decodeTableLine nbits w).bind Line.op

end Sys2Proof
end

