-- ==== Sys2Proof/Machine/State.lean ====
section
/-! DEFINITION. The state of the machine (10_state.md), the reasons a step can stop, and the state after reset
(10_state.md R46, 70_reset_and_hazards.md R220). -/

namespace Sys2Proof.Machine

/-- The run state of the core (10_state.md R39, 60_exceptions.md R204). -/
inductive RunState where
  | running
  /-- Entered by `powerdown`; no line executes (44_powerdown.md R150). -/
  | powerDown
  /-- "During debug state and wait state interrupts will not be accepted" (R205). -/
  | debug
  /-- As `debug` for interrupts; nothing changes meanwhile (R206). -/
  | wait
  deriving DecidableEq, Repr

/-- The status register, by its named fields (10_state.md R22 to R27): the source gives no positions. The three bit
vectors of unknown width hold their existing bits and zeros elsewhere (`StatusReg.fits`). -/
structure StatusReg where
  /-- `SR.IE`, the global interrupt enable, a member of SRME (R23, R26). -/
  ie : Bool
  /-- `SR.V`, overflow (R24). -/
  v : Bool
  /-- `SR.N`, negative (R24). -/
  n : Bool
  /-- `SR.Z`, zero (R24). -/
  z : Bool
  /-- `SRME_OTHER`, the members of SRME other than IE (R25). -/
  srmeOther : BitVec 32
  /-- `SRME0.IE`, the backup of IE (R27). -/
  ie0 : Bool
  /-- `SRME0.OTHER`, the backup of SRME_OTHER (R27). -/
  other0 : BitVec 32
  /-- `SR.rest`, whatever else SR holds (R22). -/
  rest : BitVec 32
  deriving DecidableEq, Repr

/-- One hardware loop register set (10_state.md R32). -/
structure LoopSet where
  lc   : Word
  lstk : Word
  lpa  : Word
  deriving DecidableEq, Repr

/-- One entry of the observable history (10_state.md R43). -/
inductive Event where
  /-- A pulse of `iack_out[k]` (60_exceptions.md R182). -/
  | iack (k : Fin 15)
  /-- A change of `powerdown_out` to this level. -/
  | powerdownOut (level : Bool)
  /-- A slot written by the core (20_memory.md R65). -/
  | memWrite (addr : Nat) (value : Word)
  deriving DecidableEq, Repr

/-- One change a debugger makes while the core is in debug state (60_exceptions.md R205: unsaid, so any). -/
inductive DebugWrite where
  | pc (a : Nat)
  | ilr (a : Nat)
  | sr (image : Word)
  | imsk (m : IrqLines)
  | sp (a : Nat)
  | lcp (i : Fin 5)
  | loopSet (i : Fin 4) (x : LoopSet)
  | reg (r : Nat) (x : Word)
  | byte (a : Nat) (b : Byte)
  deriving DecidableEq, Repr

/-- A move of one of the agents of 00_scope.md R13, each landing between lines (log entry 2). A move the rules do
not allow in the state it meets does nothing. -/
inductive Move where
  /-- The environment drives the inputs (10_state.md R34, R36). -/
  | drive (irq : IrqLines) (resume : Bool)
  /-- Hardware reset (70_reset_and_hazards.md R220). -/
  | hardReset
  /-- Running to Debug and back (60_exceptions.md R205). -/
  | debugEnter
  | debugLeave
  /-- The debugger changes something, in debug state only (R205, U23). -/
  | debugWrite (d : DebugWrite)
  /-- Running to Wait and back (R206). -/
  | waitEnter
  | waitLeave
  /-- The core accepts the request of input `k` at this boundary, where R176 allows it. -/
  | accept (k : Fin 15)
  /-- The core wakes from power-down, where R207 allows it. -/
  | wake
  /-- The core executes the next line. -/
  | line
  deriving DecidableEq, Repr

/-- Why the machine stops with a fault: the model's own outcomes, not hardware traps (60_exceptions.md R200). -/
inductive Fault where
  /-- A load from a slot that nothing has written since reset; raised by the loads `r = sp[o]` (10_state.md R47,
  20_memory.md R64). Safe: the chip reads some value. -/
  | readOfUnwrittenState
  /-- `lcp = sp[o]` of a value above 4; raised by that load (43_stack_loopregs.md R137, U9). Safe. -/
  | lcpOutOfRange
  /-- A step of the core whose PC starts no line, be it a line or an acceptance (`State.atLine`; 20_memory.md R62); one
  whose instruction uses `next(PC)` where no line starts (`State.fetch`; 10_state.md R20); a jump to a number that is no
  address of PCW bits (`execJp`; U11, log entry 12). Safe: the chip goes on somehow. -/
  | fetchOutsideProgram
  deriving DecidableEq, Repr

/-- Why a form has no meaning here (00_scope.md R10, `refuse`). -/
inductive Refusal where
  /-- An instruction without a meaning yet; raised by `exec`'s arm alone. Safe. -/
  | notModelled (mnemonic : String)
  /-- A program the spec does not admit, or one that runs beyond 2^PCW (log entry 10); raised by its loading
  (`State.loadProgram`) and, where it stands in program memory all the same, by every step of the core
  (`State.atLine`). Also raised by a meaning that `exec` is given with such an operand (30_encoding.md R93, log
  entry 10). Safe: the chip may give the form a meaning. -/
  | notAdmitted (d : Defect)
  /-- A stack access outside `[STACK_LO, STACK_HI)` or not 4-aligned; raised by the loads and stores
  (20_memory.md R64, R65, R67, U7). Safe. -/
  | unadmittedDataAccess
  /-- `lc`, `lstk` or `lpa` named while LCP = 4; raised by their loads and stores (43_stack_loopregs.md R145, U9).
  Safe. -/
  | loopRegisterAccessWithLcp4
  deriving DecidableEq, Repr

/-- The whole machine. INVENTORY.md lists each field with its rule and its reset value. -/
structure State where
  /-- The open parameters of 00_scope.md R7; no step changes them (log entry 3). -/
  par : Params
  /-- `PC`, the address of the next line to execute (10_state.md R20). -/
  pc : Nat
  /-- The model's own: `next(a)` of the line being executed, set by the fetch (00_scope.md R10, log entry 4). -/
  npc : Nat
  /-- The model's own: PC is where a `reti` went, and no line has executed since (D13; log entry 21). -/
  returned : Bool
  /-- `ILR`, the interrupt link register (10_state.md R21). -/
  ilr : Nat
  /-- `SR`, the status register (10_state.md R22). -/
  sr : StatusReg
  /-- `IMSK`, the interrupt mask: 1 is unmasked (10_state.md R28). -/
  imsk : IrqLines
  /-- `SP`, the stack pointer, a byte address of data memory (10_state.md R30). -/
  sp : Nat
  /-- `LCP`, the loop count pointer, 0 to 4 (10_state.md R31). -/
  lcp : Fin 5
  /-- The four loop register sets `LC[i]`, `LSTK[i]`, `LPA[i]` (10_state.md R32). -/
  loops : Vector LoopSet 4
  /-- The general registers that hold a value other than 0, by number (10_state.md R40, log entry 9). -/
  regs : List (Nat × Word)
  /-- Data memory: the bytes written since reset (20_memory.md R60, R66). -/
  mem : List Host.Cell
  /-- Program memory: the lines, by the address each starts at (20_memory.md R62). -/
  pm : List (Nat × Placed)
  /-- The inputs `irq_inp[14:0]`, as the environment drives them (10_state.md R34). -/
  irqInp : IrqLines
  /-- The input `resume` (10_state.md R36). -/
  resume : Bool
  /-- The outputs `iack_out[14:0]` during the last step (10_state.md R35). -/
  iackOut : IrqLines
  /-- The run state (10_state.md R39). -/
  run : RunState
  /-- `IE_prev`, hidden (10_state.md R42). -/
  iePrev : Bool
  /-- `IMSK_prev`, hidden (10_state.md R42). -/
  imskPrev : IrqLines
  /-- The observable history, newest first (10_state.md R43). -/
  history : List Event
  /-- The model's own: the moves still to be made, next first (log entry 2). -/
  agenda : List Move
  /-- The model's own: how many free values have been drawn (log entries 8 and 13). -/
  draws : Nat
  deriving DecidableEq, Repr

/-- `powerdown_out`: asserted while the core is in power-down mode and not otherwise (10_state.md R37). -/
def State.powerdownOut (s : State) : Bool := decide (s.run = .powerDown)

/-- `irq_stat`: bit `k` is the level of `irq_inp[k]`, not gated by IMSK or IE (10_state.md R29). -/
def State.irqStat (s : State) : IrqLines := s.irqInp

/-- The status register after hardware reset: IE = 0 (D8), the rest not in the source (log entry 5). -/
def StatusReg.reset : StatusReg where
  ie := false
  v := false
  n := false
  z := false
  srmeOther := 0
  ie0 := false
  other0 := 0
  rest := 0

/-- The machine of parameters `p` right after hardware reset, its program memory empty (10_state.md R46). The
registers R46 calls unspecified hold 0, and LCP 4 (log entries 5 and 6). -/
def State.launch (p : Params) : State where
  par := p
  pc := 0
  npc := 0
  returned := false
  ilr := 0
  sr := .reset
  imsk := Config.imskReset
  sp := 0
  lcp := 4
  loops := Vector.replicate 4 ⟨0, 0, 0⟩
  regs := []
  mem := []
  pm := []
  irqInp := 0
  resume := false
  iackOut := 0
  run := .running
  iePrev := false
  imskPrev := Config.imskReset
  history := []
  agenda := []
  draws := 0

/-- The machine right after reset: `State.launch` with the open parameters left open. -/
def State.reset : State := State.launch Config.params

end Sys2Proof.Machine
end

