-- ==== Sys2Proof/Machine/Ops.lean ====
section
/-! DEFINITION. The named operations over memory and registers, taking an interrupt and returning from one. -/

namespace Sys2Proof.Machine

/-- What a step or a meaning answers. -/
abbrev Result := Host.Outcome State Fault Refusal

/-! ## Maps held as lists of key and value, keys strictly rising -/

/-- The value at key `a`, if the list has one. -/
def lookupAt {α : Type} : List (Nat × α) → Nat → Option α
  | [], _ => none
  | (b, x) :: l, a => if a = b then some x else lookupAt l a

/-- The list with `x` at key `a`. -/
def insertAt {α : Type} (a : Nat) (x : α) : List (Nat × α) → List (Nat × α)
  | [] => [(a, x)]
  | (b, y) :: l => if a < b then (a, x) :: (b, y) :: l else if a = b then (a, x) :: l else (b, y) :: insertAt a x l

/-- The list without key `a`. -/
def eraseAt {α : Type} (a : Nat) : List (Nat × α) → List (Nat × α)
  | [] => []
  | (b, y) :: l => if a = b then l else if a < b then (b, y) :: l else (b, y) :: eraseAt a l

/-- Keys strictly rising. -/
def keysRise {α : Type} : List (Nat × α) → Bool
  | [] => true
  | [_] => true
  | (a, _) :: (b, y) :: l => decide (a < b) && keysRise ((b, y) :: l)

/-! ## Data memory (20_memory.md R60 to R70) -/

/-- What a byte that no cell lists reads as: no value (20_memory.md R64, 10_state.md R47). -/
def unlistedByte : Option Byte := none

/-- The canonical form: addresses strictly rising. No cell can equal what an unlisted byte reads as, since that is
no value. -/
def Memory.wf (m : List Host.Cell) : Bool := keysRise m

/-- The byte at `a`, if anything has written it since reset. -/
def Memory.read (m : List Host.Cell) (a : Nat) : Option Byte := (lookupAt m a).or unlistedByte

/-- The memory with byte `b` at `a`. -/
def Memory.write (m : List Host.Cell) (a : Nat) (b : Byte) : List Host.Cell := insertAt a b m

/-- Byte `i` of a slot's value, 0 the one at the lowest address (DM_ENDIAN, 20_memory.md R66). -/
def slotByte (bigEndian : Bool) (w : Word) (i : Nat) : Byte :=
  w.extractLsb' (8 * (if bigEndian then 3 - i else i)) 8

/-- A slot's value from its bytes, lowest address first. -/
def slotOfBytes (bigEndian : Bool) (b0 b1 b2 b3 : Byte) : Word :=
  if bigEndian then b0 ++ b1 ++ b2 ++ b3 else b3 ++ b2 ++ b1 ++ b0

/-- The slot at `a`, if all its bytes have been written. -/
def Memory.readSlot (bigEndian : Bool) (m : List Host.Cell) (a : Nat) : Option Word :=
  match Memory.read m a, Memory.read m (a + 1), Memory.read m (a + 2), Memory.read m (a + 3) with
  | some b0, some b1, some b2, some b3 => some (slotOfBytes bigEndian b0 b1 b2 b3)
  | _, _, _, _ => none

/-- The memory with value `w` in the slot at `a`. -/
def Memory.writeSlot (bigEndian : Bool) (m : List Host.Cell) (a : Nat) (w : Word) : List Host.Cell :=
  let m0 := Memory.write m a (slotByte bigEndian w 0)
  let m1 := Memory.write m0 (a + 1) (slotByte bigEndian w 1)
  let m2 := Memory.write m1 (a + 2) (slotByte bigEndian w 2)
  Memory.write m2 (a + 3) (slotByte bigEndian w 3)

/-- Where a data access is admitted: 4-aligned and inside `[STACK_LO, STACK_HI)` (20_memory.md R64, R67, R69). -/
def Params.slotAdmitted (p : Params) (a : Nat) : Bool :=
  decide (a % 4 = 0 ∧ p.stackLo ≤ a ∧ a + 4 ≤ p.stackHi)

/-- `MemRead(addr, 4)` (20_memory.md R64). -/
def State.memRead (s : State) (a : Nat) : Host.Outcome Word Fault Refusal :=
  if Params.slotAdmitted s.par a then
    match Memory.readSlot s.par.bigEndian s.mem a with
    | some w => .next w
    | none => .fault .readOfUnwrittenState
  else .refused .unadmittedDataAccess

/-- The state with the slot at `a` written and the write in the history (20_memory.md R65). -/
def State.putSlot (s : State) (a : Nat) (w : Word) : State :=
  { s with mem := Memory.writeSlot s.par.bigEndian s.mem a w, history := .memWrite a w :: s.history }

/-- `MemWrite(addr, 4, v)` (20_memory.md R65). -/
def State.memWrite (s : State) (a : Nat) (w : Word) : Result :=
  if Params.slotAdmitted s.par a then .next (s.putSlot a w) else .refused .unadmittedDataAccess

/-! ## General registers (10_state.md R40, 30_encoding.md R95) -/

/-- The value of general register `r`; one that is not listed holds 0 (log entry 9). -/
def State.reg (s : State) (r : Nat) : Word := (lookupAt s.regs r).getD 0

/-- The state with `x` in general register `r`. -/
def State.setReg (s : State) (r : Nat) (x : Word) : State :=
  { s with regs := if x = 0 then eraseAt r s.regs else insertAt r x s.regs }

/-- The general registers' canonical form: numbers strictly rising, and no listed 0. -/
def Registers.wf (l : List (Nat × Word)) : Bool := keysRise l && l.all fun e => decide (e.2 ≠ 0)

/-! ## Program memory (20_memory.md R60 to R63) -/

/-- Whether `a` is an address of the PCW-bit program memory; the first 32 are, whatever PCW (00_scope.md R7,
10_state.md R20). -/
def Params.inProgramMemory (p : Params) (a : Nat) : Bool := decide (a < 32) || decide (a < 2 ^ p.pcw)

/-- What is wrong with a whole program: its first line that the spec does not admit (30_encoding.md R93), that runs into
the one after it (93_implementation_defined.md U12), or that has a unit at or beyond 2^PCW. DESIGN CHOICE (log entry 10,
safe): the last is the model's own ground. No rule refuses such a program; the spec only makes a step stuck whose PC is
the start of no line. -/
def programDefect (p : Params) : List (Nat × Placed) → Option Defect
  | [] => none
  | (a, l) :: rest =>
    match l.defect with
    | some d => some d
    | none =>
      if !Params.inProgramMemory p (a + l.size - 1) then some .outsideProgramMemory
      else
        match rest with
        | [] => none
        | (b, _) :: _ => if a + l.size ≤ b then programDefect p rest else some .overlappingLines

/-- Loading a program: the lines are admitted, or the program is refused by the name of its first defect
(30_encoding.md R93, 10_state.md R46). No step of the machine does this. -/
def State.loadProgram (s : State) (pm : List (Nat × Placed)) : Result :=
  match programDefect s.par pm with
  | none => .next { s with pm := pm }
  | some d => .refused (.notAdmitted d)

/-- `PM(a)`: the line that starts at address `a`, or nothing (20_memory.md R62). -/
def State.lineAt (s : State) (a : Nat) : Option Placed := lookupAt s.pm a

/-- The `nop` of the line `sint v ; nop` that stands at `a`, where an implementation saves its address
(40_sint_reti.md R100, D13; log entry 21). -/
def State.nopBeside (s : State) (a : Nat) : Option Placed :=
  match s.par.sintReturn with
  | .lineAfter => none
  | .itsNop k =>
    match s.lineAt (a - k) with
    | some ⟨⟨.sint _, some .nop⟩, size⟩ => if k ≤ a ∧ k < size then some ⟨⟨.nop, none⟩, size - k⟩ else none
    | _ => none

/-- What a PC of `a` executes: the line that starts there or, right after a `reti`, the `nop` that a software interrupt
returns to. Any other PC inside a line executes nothing (20_memory.md R62; log entry 21). -/
def State.operationAt (s : State) (a : Nat) : Option Placed :=
  (s.lineAt a).or (if s.returned then s.nopBeside a else none)

/-! ## The pc -/

/-- `PC <- next(a)` (10_state.md R20). -/
def State.advance (s : State) : State := { s with pc := s.npc }

/-! ## Interrupt entry and return (60_exceptions.md R180, 40_sint_reti.md R100, R101) -/

/-- SRME copied into its backup SRME0, IE as it stands, and IE then cleared (60_exceptions.md R180). -/
def StatusReg.enter (r : StatusReg) : StatusReg := { r with ie0 := r.ie, other0 := r.srmeOther, ie := false }

/-- SRME restored from its backup (40_sint_reti.md R101). -/
def StatusReg.restore (r : StatusReg) : StatusReg := { r with ie := r.ie0, srmeOther := r.other0 }

/-- The address of entry `n` of the vector table: the one table, its base 0 and nothing that moves it (60_exceptions.md
R202, R212). -/
def vecEntry (n : Fin 16) : Nat := Config.vecStride * n.val

/-- Taking an interrupt: the action sequence hardware and software interrupts share, `ret` the address saved and
`vector` the vector address (60_exceptions.md R180, 40_sint_reti.md R100). It is the one way in, at the one level: no
trap is delegated, and State has nothing a level would be kept in (60_exceptions.md R202, R203). -/
def State.takeInterrupt (s : State) (ret vector : Nat) : State :=
  { s with ilr := ret, sr := s.sr.enter, pc := vector, returned := false, iePrev := false, imskPrev := s.imsk }

/-- Returning from one (40_sint_reti.md R101, 60_exceptions.md R185). -/
def State.returnFromInterrupt (s : State) : State :=
  { s with pc := s.ilr, sr := s.sr.restore, returned := true }

/-- A pulse of `iack_out[k]`, high for this step (10_state.md R35, 60_exceptions.md R182). -/
def State.pulseIack (s : State) (k : Fin 15) : State :=
  { s with iackOut := s.iackOut ||| BitVec.ofNat 15 (2 ^ k.val), history := .iack k :: s.history }

/-- `VecOfPin(k)`: input `k` raises interrupt number `k + 1` (60_exceptions.md R172, D2). -/
def vecOfPin (k : Fin 15) : Nat := vecEntry k.succ

/-- The entry step for input `k` (60_exceptions.md R180). -/
def State.acceptInterrupt (s : State) (k : Fin 15) : State :=
  (s.takeInterrupt s.pc (vecOfPin k)).pulseIack k

/-- The next free value, and the state that has drawn it. -/
def State.draw (s : State) : Word × State := (Config.freeWord s.draws, { s with draws := s.draws + 1 })

/-- The acknowledge events of a set of outputs pulsed together; among themselves their order says nothing. -/
def ackEvents (m : IrqLines) : List Event := ((List.finRange 15).filter fun k => m.getLsbD k.val).map .iack

/-- A pulse of every output in `m`, high for this step (10_state.md R35). -/
def State.pulseAcks (s : State) (m : IrqLines) : State :=
  { s with iackOut := s.iackOut ||| m, history := ackEvents m ++ s.history }

/-- The acknowledges `sint v` gives: none where the implementation pulses none, else a free value, for every vector
(40_sint_reti.md R100, SINT_PULSES_IACK, D14; log entry 13). -/
def State.sintAck (s : State) (v : Nat) : State :=
  if s.par.sintPulsesIack then s.draw.2.pulseAcks (Config.sintAcks s.draws v) else s

/-- `SintReturn(a)` of the line being executed, at `a` = PC: `next(a)`, or the address of the `nop` inside the line
(40_sint_reti.md R100 corner case 4, D13). -/
def State.sintReturn (s : State) : Nat :=
  match s.par.sintReturn with
  | .lineAfter => s.npc
  | .itsNop k => if s.pc + k < s.npc then s.pc + k else s.npc

/-- The registers `sint v` writes: those of the whole entry sequence, but that for interrupt 0 the implementation may
write the pc alone (40_sint_reti.md R100, 60_exceptions.md R192). -/
def State.softwareEntry (s : State) (v : Nat) : State :=
  if v = 0 ∧ s.par.irq0FullEntry = false then { s with pc := 0 } else s.takeInterrupt s.sintReturn v

/-- `sint v` on admitted `v`: its entry, and the acknowledges it may give (40_sint_reti.md R100). -/
def State.softwareInterrupt (s : State) (v : Nat) : State := (s.softwareEntry v).sintAck v

/-! ## Hardware reset and power-down -/

/-- A change of `powerdown_out`, as the run state changes from the one in `s` to `r`, in the history
(10_state.md R37, R43). -/
def State.setRun (s : State) (r : RunState) : State :=
  { s with
    run := r
    history :=
      if s.powerdownOut = decide (r = .powerDown) then s.history else .powerdownOut (decide (r = .powerDown)) :: s.history }

/-- Hardware reset: every register as `State.launch` has it and data memory unwritten; program memory, the inputs
and the history stay (70_reset_and_hazards.md R220). -/
def State.hardReset (s : State) : State :=
  { State.launch s.par with
    pm := s.pm, irqInp := s.irqInp, resume := s.resume, history := (s.setRun .running).history, agenda := s.agenda,
    draws := s.draws }

end Sys2Proof.Machine
end

