-- ==== Sys2Proof/Machine/Flags.lean ====
section
/-! DEFINITION. The status register as bits: the image a slot holds of it, its writes by field, and the flags. No
instruction in scope computes V, N or Z; only the whole-register load writes them (10_state.md R24, D37). -/

namespace Sys2Proof.Machine

/-- The bit of the status register named `b`. -/
def StatusReg.get (r : StatusReg) : SrBit → Bool
  | .ie => r.ie
  | .v => r.v
  | .n => r.n
  | .z => r.z
  | .ie0 => r.ie0
  | .other i => r.srmeOther.getLsbD i
  | .other0 i => r.other0.getLsbD i
  | .rest i => r.rest.getLsbD i

/-- The number whose bits below `k` are `f`'s. -/
def bitsVal (f : Nat → Bool) : Nat → Nat
  | 0 => 0
  | k + 1 => bitsVal f k + if f k then 2 ^ k else 0

/-- The 32-bit vector whose bits are `f`'s. -/
def wordOfBits (f : Nat → Bool) : BitVec 32 := BitVec.ofNat 32 (bitsVal f 32)

/-- The status register whose bit named `b` is `f b`. -/
def StatusReg.ofBits (f : SrBit → Bool) : StatusReg where
  ie := f .ie
  v := f .v
  n := f .n
  z := f .z
  srmeOther := wordOfBits fun i => f (.other (Fin.ofNat 32 i))
  ie0 := f .ie0
  other0 := wordOfBits fun i => f (.other0 (Fin.ofNat 32 i))
  rest := wordOfBits fun i => f (.rest (Fin.ofNat 32 i))

/-- The status register as the SRW-bit value its layout makes of it (10_state.md R22). -/
def StatusReg.image (l : List SrBit) (r : StatusReg) : Word :=
  wordOfBits fun j => (l[j]?.map r.get).getD false

/-- The status register a value is the image of: a bit the layout does not have is 0. -/
def StatusReg.ofImage (l : List SrBit) (w : Word) : StatusReg :=
  .ofBits fun b => l.contains b && w.getLsbD (l.idxOf b)

/-- Every bit of the status register that the layout does not have is 0. -/
def StatusReg.fits (l : List SrBit) (r : StatusReg) : Bool :=
  r == .ofBits fun b => l.contains b && r.get b

/-- `SR.IE <- u` (42_ie_imsk_irqstat.md R120). -/
def State.setIe (s : State) (u : Bool) : State := { s with sr := { s.sr with ie := u } }

/-- `IMSK <- m` (42_ie_imsk_irqstat.md R121, R122). -/
def State.setImsk (s : State) (m : IrqLines) : State := { s with imsk := m }

end Sys2Proof.Machine
end

