-- ==== Sys2Proof/Machine/Operands.lean ====
section
/-! DEFINITION. Operand forms: the stack slot `sp[o]`, the packing of a register into a slot, the loop register
window (43_stack_loopregs.md R144, R145; 30_encoding.md R87). -/

namespace Sys2Proof.Machine

/-- The meaning `r` of instruction `i`, whose operands the spec must admit (30_encoding.md R93). -/
def ifAdmitted (i : Instr) (r : Result) : Result :=
  match i.defect with
  | none => r
  | some d => .refused (.notAdmitted d)

/-- The low `width` bits of a value. -/
def lowBits (width : Nat) (v : Word) : Word := BitVec.ofNat 32 (v.toNat % 2 ^ width)

/-- `pack_W(v)`: `v` in the low `width` bits, the bits of the draw `free` above them (R144). -/
def pack (width : Nat) (v free : Word) : Word :=
  if width < 32 then BitVec.ofNat 32 (v.toNat % 2 ^ width + 2 ^ width * free.toNat) else v

/-- `unpack_W(w)` (R144). -/
def unpack (width : Nat) (w : Word) : Word := lowBits width w

/-- The byte address of `sp[o]`: `(SP + o) mod 2^AW` (30_encoding.md R87). -/
def State.slotAddr (s : State) (o : Nat) : Nat := (s.sp + o) % 2 ^ s.par.aw

/-- `(SP + n) mod 2^AW`, the sum a signed one (43_stack_loopregs.md R130, 00_scope.md R9). -/
def State.spPlus (s : State) (n : Int) : Nat := (((s.sp : Int) + n) % (2 ^ s.par.aw : Nat)).toNat

/-- `sp[o] = r` of a register `v` that is `width` bits wide: one slot written, then the pc moves on
(43_stack_loopregs.md R131 to R136). -/
def State.storeAt (s : State) (o width : Nat) (v : Word) : Result :=
  s.draw.2.advance.memWrite (s.slotAddr o) (pack width v s.draw.1)

/-- `r = sp[o]`: one slot read, and `k` given its value (43_stack_loopregs.md R137 to R142). -/
def State.loadAt (s : State) (o : Nat) (k : Word → Result) : Result :=
  match s.memRead (s.slotAddr o) with
  | .next w => k w
  | .fault f => .fault f
  | .refused r => .refused r

/-- The set `lc`, `lstk`, `lpa` name: that of LCP in 0 to 3, none at 4 (43_stack_loopregs.md R145). -/
def State.window (s : State) : Option (Fin 4) := if h : s.lcp.val < 4 then some ⟨s.lcp.val, h⟩ else none

/-- A form that names a register of the window, which must exist (43_stack_loopregs.md R145). -/
def State.withWindow (s : State) (k : Fin 4 → Result) : Result :=
  match s.window with
  | some i => k i
  | none => .refused .loopRegisterAccessWithLcp4

/-- Loop register set `i` (10_state.md R32). -/
def State.loopSet (s : State) (i : Fin 4) : LoopSet := s.loops[i]

/-- The state with `x` as loop register set `i`. -/
def State.setLoopSet (s : State) (i : Fin 4) (x : LoopSet) : State := { s with loops := s.loops.set i x }

end Sys2Proof.Machine
end

