-- ==== Sys2Proof/Machine/Control.lean ====
section
/-! DEFINITION. Jump, no-operation, software interrupt, return and power-down (40_sint_reti.md, 41_jp_nop.md,
44_powerdown.md). -/

namespace Sys2Proof.Machine

/-- `jp <symbol>`: PC <- T and nothing else; no delay slot (R110). A number that is no address of PCW bits cannot be
what PC holds, and is the start of no line: stuck (20_memory.md R62; log entry 12). -/
def execJp (target : Nat) (s : State) : Result :=
  if Params.inProgramMemory s.par target then .next { s with pc := target } else .fault .fetchOutsideProgram

/-- `sint <v> ; nop` (R100). -/
def execSint (v : Nat) (s : State) : Result :=
  ifAdmitted (.sint v) (.next (s.softwareInterrupt v))

/-- `nop` (R111). -/
def execNop (s : State) : Result := .next s.advance

/-- `reti ; nop` (R101). -/
def execReti (s : State) : Result := .next s.returnFromInterrupt

/-- `powerdown` (R150). -/
def execPowerdown (s : State) : Result := .next (s.advance.setRun .powerDown)

end Sys2Proof.Machine
end

