-- ==== Sys2Proof/Machine/Interrupt.lean ====
section
/-! DEFINITION. Interrupt enable, mask and status access (42_ie_imsk_irqstat.md). -/

namespace Sys2Proof.Machine

/-- `ie = <u>` (R120). -/
def execIeSet (u : Nat) (s : State) : Result :=
  ifAdmitted (.ieSet u) (.next (s.setIe (u == 1)).advance)

/-- `imsk = <m>` (R121). -/
def execImskSet (m : Nat) (s : State) : Result :=
  ifAdmitted (.imskSet m) (.next (s.setImsk (BitVec.ofNat 15 m)).advance)

/-- `imsk = <reg>`: bits 14 to 0 of the register; the others are ignored (R122). -/
def execSetInterruptMask (reg : Nat) (s : State) : Result :=
  .next (s.setImsk ((s.reg reg).setWidth 15)).advance

/-- `<reg> = imsk`, zero-extended (R123). -/
def execGetInterruptMask (reg : Nat) (s : State) : Result :=
  .next (s.setReg reg (s.imsk.setWidth 32)).advance

/-- `<reg> = irq_stat`, zero-extended (R124). -/
def execGetIrqStat (reg : Nat) (s : State) : Result :=
  .next (s.setReg reg (s.irqStat.setWidth 32)).advance

end Sys2Proof.Machine
end

