-- ==== Sys2Proof/Machine/Stack.lean ====
section
/-! DEFINITION. The stack pointer, the moves between registers and the stack, and `lcp = <imm>`
(43_stack_loopregs.md). -/

namespace Sys2Proof.Machine

/-- `sp += <n>`; the flags stay (R130). -/
def execSpAdd (n : Int) (s : State) : Result := .next { s.advance with sp := s.spPlus n }

/-- `sp[<o>] = lcp` (R131). -/
def execStLcp (o : Nat) (s : State) : Result :=
  ifAdmitted (.stLcp o) (s.storeAt o s.par.lcpW (BitVec.ofNat 32 s.lcp.val))

/-- `sp[<o>] = lc` (R132). -/
def execStLc (o : Nat) (s : State) : Result :=
  ifAdmitted (.stLc o) (s.withWindow fun i => s.storeAt o s.par.lcW (s.loopSet i).lc)

/-- `sp[<o>] = lstk` (R133). -/
def execStLstk (o : Nat) (s : State) : Result :=
  ifAdmitted (.stLstk o) (s.withWindow fun i => s.storeAt o s.par.lstkW (s.loopSet i).lstk)

/-- `sp[<o>] = lpa` (R134). -/
def execStLpa (o : Nat) (s : State) : Result :=
  ifAdmitted (.stLpa o) (s.withWindow fun i => s.storeAt o s.par.lpaW (s.loopSet i).lpa)

/-- `sp[<o>] = sr`, the whole register (R135). -/
def execStSr (o : Nat) (s : State) : Result :=
  ifAdmitted (.stSr o) (s.storeAt o s.par.srLayout.length (s.sr.image s.par.srLayout))

/-- `sp[<o>] = ilr` (R136). -/
def execStIlr (o : Nat) (s : State) : Result :=
  ifAdmitted (.stIlr o) (s.storeAt o s.par.pcw (BitVec.ofNat 32 s.ilr))

/-- `lcp = sp[<o>]`: a value above 4 faults (R137). -/
def execLdLcp (o : Nat) (s : State) : Result :=
  ifAdmitted (.ldLcp o) <| s.loadAt o fun w =>
    if h : (unpack s.par.lcpW w).toNat < 5 then .next { s.advance with lcp := ⟨(unpack s.par.lcpW w).toNat, h⟩ }
    else .fault .lcpOutOfRange

/-- `lc = sp[<o>]` (R138). -/
def execLdLc (o : Nat) (s : State) : Result :=
  ifAdmitted (.ldLc o) <| s.withWindow fun i => s.loadAt o fun w =>
    .next (s.setLoopSet i { s.loopSet i with lc := unpack s.par.lcW w }).advance

/-- `lstk = sp[<o>]` (R139). -/
def execLdLstk (o : Nat) (s : State) : Result :=
  ifAdmitted (.ldLstk o) <| s.withWindow fun i => s.loadAt o fun w =>
    .next (s.setLoopSet i { s.loopSet i with lstk := unpack s.par.lstkW w }).advance

/-- `lpa = sp[<o>]` (R140). -/
def execLdLpa (o : Nat) (s : State) : Result :=
  ifAdmitted (.ldLpa o) <| s.withWindow fun i => s.loadAt o fun w =>
    .next (s.setLoopSet i { s.loopSet i with lpa := unpack s.par.lpaW w }).advance

/-- `sr = sp[<o>]`: every field is replaced (R141). -/
def execLdSr (o : Nat) (s : State) : Result :=
  ifAdmitted (.ldSr o) <| s.loadAt o fun w =>
    .next { s.advance with sr := .ofImage s.par.srLayout (unpack s.par.srLayout.length w) }

/-- `ilr = sp[<o>]` (R142). -/
def execLdIlr (o : Nat) (s : State) : Result :=
  ifAdmitted (.ldIlr o) <| s.loadAt o fun w => .next { s.advance with ilr := (unpack s.par.pcw w).toNat }

/-- `lcp = <i>` (R143). -/
def execLcpSet (i : Nat) (s : State) : Result :=
  ifAdmitted (.lcpSet i) (.next { s.advance with lcp := Fin.ofNat 5 i })

end Sys2Proof.Machine
end

