-- ==== Sys2Proof/Machine/Dispatch.lean ====
section
/-! DEFINITION. The meaning of each instruction, one arm per constructor. -/

namespace Sys2Proof.Machine

def exec (i : Instr) (s : State) : Host.Outcome State Fault Refusal :=
  match i with
  | .jp t => Sys2Proof.Machine.execJp t s
  | .sint v => Sys2Proof.Machine.execSint v s
  | .nop => Sys2Proof.Machine.execNop s
  | .reti => Sys2Proof.Machine.execReti s
  | .ieSet u => Sys2Proof.Machine.execIeSet u s
  | .imskSet m => Sys2Proof.Machine.execImskSet m s
  | .setInterruptMask r => Sys2Proof.Machine.execSetInterruptMask r s
  | .getInterruptMask r => Sys2Proof.Machine.execGetInterruptMask r s
  | .getIrqStat r => Sys2Proof.Machine.execGetIrqStat r s
  | .spAdd n => Sys2Proof.Machine.execSpAdd n s
  | .stLcp o => Sys2Proof.Machine.execStLcp o s
  | .stLc o => Sys2Proof.Machine.execStLc o s
  | .stLstk o => Sys2Proof.Machine.execStLstk o s
  | .stLpa o => Sys2Proof.Machine.execStLpa o s
  | .stSr o => Sys2Proof.Machine.execStSr o s
  | .stIlr o => Sys2Proof.Machine.execStIlr o s
  | .ldLcp o => Sys2Proof.Machine.execLdLcp o s
  | .ldLc o => Sys2Proof.Machine.execLdLc o s
  | .ldLstk o => Sys2Proof.Machine.execLdLstk o s
  | .ldLpa o => Sys2Proof.Machine.execLdLpa o s
  | .ldSr o => Sys2Proof.Machine.execLdSr o s
  | .ldIlr o => Sys2Proof.Machine.execLdIlr o s
  | .lcpSet k => Sys2Proof.Machine.execLcpSet k s
  | .powerdown => Sys2Proof.Machine.execPowerdown s

end Sys2Proof.Machine
end

