-- ==== Sys2Proof/Machine/Turn.lean ====
section
/-! DEFINITION. What happens at a boundary between lines: the environment's moves, the acceptance of interrupts,
the wake from power-down, and the fetch of the next line (60_exceptions.md R170 to R186, R205 to R207;
30_encoding.md R81). -/

namespace Sys2Proof.Machine

/-- What a step does: execute an instruction in a state, or something that needs none. -/
inductive Turn where
  | execute (i : Instr) (s : State)
  | done (r : Result)
  deriving Repr

/-! ## The stale-enable window (10_state.md R42) -/

/-- An interruptible boundary is passed without an acceptance: the hidden values follow IE and IMSK (R42). -/
def State.passBoundary (s : State) : State := { s with iePrev := s.sr.ie, imskPrev := s.imsk }

/-- At a boundary that is not interruptible the hidden values accumulate (R42); in scope these are the boundaries
with `run` not Running (60_exceptions.md R178). -/
def State.holdWindow (s : State) : State :=
  match s.run with
  | .running => s
  | .powerDown | .debug | .wait => { s with iePrev := s.iePrev || s.sr.ie, imskPrev := s.imskPrev ||| s.imsk }

/-! ## Acceptance (60_exceptions.md R176, R179) -/

/-- The lowest-numbered input of a set, the one of highest priority (R179). -/
def lowestInput (m : IrqLines) : Option (Fin 15) := (List.finRange 15).find? fun k => m.getLsbD k.val

/-- `Elig_now`: the inputs that are HIGH and unmasked (R176). -/
def State.eligNow (s : State) : IrqLines := s.irqInp &&& s.imsk

/-- `Elig_win`: those that are HIGH and unmasked, or were unmasked before the last line (R176). -/
def State.eligWin (s : State) : IrqLines := s.irqInp &&& (s.imsk ||| s.imskPrev)

/-- The input the normal way accepts (R176). -/
def State.normalChoice (s : State) : Option (Fin 15) := if s.sr.ie then lowestInput s.eligNow else none

/-- The input the stale way accepts (R176, R183). -/
def State.staleChoice (s : State) : Option (Fin 15) :=
  if s.sr.ie || s.iePrev then lowestInput s.eligWin else none

/-- Whether the request of input `k` can be accepted at this boundary (R176, R178). -/
def State.mayAccept (s : State) (k : Fin 15) : Bool :=
  decide (s.run = .running) && (s.normalChoice == some k || s.staleChoice == some k)

/-! ## Wake from power-down (60_exceptions.md R207) -/

/-- The wake that is promised: `resume` is HIGH, or a request that is HIGH, unmasked and enabled (R207). -/
def State.wakePromised (s : State) : Bool := s.resume || (s.sr.ie && s.eligNow != 0)

/-- Whether the core can wake: a promised wake, or any HIGH input where WAKE_NEEDS_ENABLE does not hold (R207). -/
def State.mayWake (s : State) : Bool :=
  decide (s.run = .powerDown) && (s.wakePromised || (!s.par.wakeNeedsEnable && s.irqInp != 0))

/-! ## Fetch (20_memory.md R62, 10_state.md R20, 30_encoding.md R93) -/

/-- Whether an instruction uses the address of the line after it; a jump and a return do not, and the spec's programs
end in them (95_test_vectors.md part 3). -/
def Instr.usesNext : Instr → Bool
  | .jp _ | .reti => false
  | _ => true

/-- `next(a)` latched for the instruction about to execute (00_scope.md R10); what PC holds after it is no return's,
unless it is a `reti`. -/
def State.setNext (s : State) (a : Nat) : State := { s with npc := a, returned := false }

/-- A step of the core at PC, a line or an acceptance: there is none in a program that is not admitted (R93), and none
where PC starts no line, be a request pending or not (R62; log entry 12), but where a `reti` has led to the `nop` of a
`sint` line (D13; log entry 21). -/
def State.atLine (s : State) (k : Placed → Turn) : Turn :=
  match programDefect s.par s.pm with
  | some d => .done (.refused (.notAdmitted d))
  | none =>
    match s.operationAt s.pc with
    | none => .done (.fault .fetchOutsideProgram)
    | some p => k p

/-- The line at PC, with `next(a)` latched for its instruction. One that uses `next(a)` needs a line there: "the model
refuses a step whose `next(PC)` is not an address of a line of the program" (R20). -/
def State.fetch (s : State) : Turn :=
  s.atLine fun p =>
    match p.line.op with
    | none => .done (.refused (.notAdmitted .twoOperationLine))
    | some i =>
      if Instr.usesNext i && (s.lineAt (s.pc + p.size)).isNone then .done (.fault .fetchOutsideProgram)
      else .execute i (s.setNext (s.pc + p.size))

/-! ## Moves -/

/-- A debugger's change; a value wider than its register is cut to it (60_exceptions.md R205, U23). -/
def State.debugWrite (s : State) : DebugWrite → State
  | .pc a => { s with pc := a % 2 ^ s.par.pcw, returned := false }
  | .ilr a => { s with ilr := a % 2 ^ s.par.pcw }
  | .sr w => { s with sr := .ofImage s.par.srLayout w }
  | .imsk m => { s with imsk := m }
  | .sp a => { s with sp := a % 2 ^ s.par.aw }
  | .lcp i => { s with lcp := i }
  | .loopSet i x =>
    s.setLoopSet i ⟨lowBits s.par.lcW x.lc, lowBits s.par.lstkW x.lstk, lowBits s.par.lpaW x.lpa⟩
  | .reg r x => s.setReg r x
  | .byte a b => { s with mem := Memory.write s.mem (a % 2 ^ s.par.aw) b }

/-- The move the core makes by itself when the agenda is empty. It honours the promises of R177, R206 and R207:
a request the normal way allows is accepted, a promised wake happens, a wait ends. -/
def State.ownMove (s : State) : Move :=
  match s.run with
  | .running =>
    match s.normalChoice with
    | some k => .accept k
    | none => .line
  | .powerDown => if s.wakePromised then .wake else .line
  | .debug => .line
  | .wait => .waitLeave

/-- The run state changes from `a` to `b`; in another run state nothing happens. -/
def State.runFromTo (s : State) (a b : RunState) : State := if s.run = a then { s with run := b } else s

/-- The request of input `k` is accepted, if R176 allows it (R177). At a PC that starts no line the core is stuck and
accepts nothing (R62; log entry 12). -/
def State.acceptTurn (s : State) (k : Fin 15) : Turn :=
  if s.mayAccept k then s.atLine fun _ => .done (.next (s.acceptInterrupt k)) else .done (.next s)

/-- The environment's levels on the inputs (10_state.md R34, R36). -/
def State.driveInputs (s : State) (irq : IrqLines) (resume : Bool) : State := { s with irqInp := irq, resume := resume }

/-- Move `m`, at the boundary `s` stands at. -/
def State.perform (s : State) : Move → Turn
  | .drive irq resume => .done (.next (s.holdWindow.driveInputs irq resume))
  | .hardReset => .done (.next s.hardReset)
  | .debugEnter => .done (.next (s.holdWindow.runFromTo .running .debug))
  | .debugLeave => .done (.next (s.holdWindow.runFromTo .debug .running))
  | .debugWrite d => .done (.next (if s.run = .debug then s.holdWindow.debugWrite d else s.holdWindow))
  | .waitEnter => .done (.next (s.holdWindow.runFromTo .running .wait))
  | .waitLeave => .done (.next (s.holdWindow.runFromTo .wait .running))
  | .accept k => s.holdWindow.acceptTurn k
  | .wake => .done (.next (if s.mayWake then s.holdWindow.setRun .running else s.holdWindow))
  | .line => if s.run = .running then s.passBoundary.fetch else .done (.next s.holdWindow)

/-- A step begins: `rest` is the agenda left, and the acknowledge outputs of the step before are low again
(10_state.md R35). -/
def State.startTurn (s : State) (rest : List Move) : State := { s with iackOut := 0, agenda := rest }

/-- What the next step does: the agenda's next move, or the core's own. -/
def State.turn (s : State) : Turn :=
  match s.agenda with
  | [] => (s.startTurn []).perform s.ownMove
  | m :: rest => (s.startTurn rest).perform m

/-! ## Loading a line -/

/-- The program of one line at `a`, two units long, and a `nop` after it for `next(a)` to be a line's address. -/
def lineProgram (a : Nat) (l : Line) : List (Nat × Placed) := [(a, ⟨l, 2⟩), (a + 2, ⟨⟨.nop, none⟩, 1⟩)]

/-- `s` with the program of line `l` at PC loaded and set to execute it next: `run` Running, and the execution as the
next move (log entry 4). Without a line, or with one the loading refuses, program memory is empty. -/
def State.placeForFetch (s : State) (l : Option Line) : State :=
  match l with
  | none => { s with pm := [] }
  | some l =>
    match s.loadProgram (lineProgram s.pc l) with
    | .next t => { t with run := .running, agenda := .line :: t.agenda }
    | .fault _ | .refused _ => { s with pm := [] }

end Sys2Proof.Machine
end

