-- ==== Sys2Proof/Machine/Step.lean ====
section
/-! DEFINITION. One step of the machine (30_encoding.md R81, 00_scope.md R13), and the host's way of placing an
instruction where the next step fetches it. -/

namespace Sys2Proof.Machine

/-- One step: a move of the environment, an acceptance, a wake, or one line. -/
def step (s : State) : Host.Outcome State Fault Refusal :=
  match s.turn with
  | .execute i s' => exec i s'
  | .done r => r

/-- `s` with the line whose text is the bits of `w` placed where `step` fetches its next line. -/
def State.withFetchWord (s : State) (nbits w : Nat) : State := s.placeForFetch (decodeTableLine nbits w)

end Sys2Proof.Machine
end

