-- ==== Sys2Proof/Machine/Wrappers.lean ====
section
/-! DEFINITION. The line sequences the source gives: the C wrappers of 30_encoding.md R91 and the envelopes of
43_stack_loopregs.md R146 to R148. They are software; the machine does not use them. -/

namespace Sys2Proof.Machine

/-- `software_interrupt()`. -/
def softwareInterruptLines : List Line := [⟨.sint 4, some .nop⟩]

/-- `enable_interrupts()`. -/
def enableInterruptsLines : List Line := [⟨.ieSet 1, none⟩, ⟨.nop, none⟩]

/-- `disable_interrupts()`. -/
def disableInterruptsLines : List Line := [⟨.ieSet 0, none⟩, ⟨.nop, none⟩]

/-- `mask_interrupt()`. -/
def maskInterruptLines : List Line := [⟨.imskSet 0, some .nop⟩]

/-- The lines that save the loop register set LCP selects, from offset `o` (R146). -/
def saveSet (o : Nat) : List Instr := [.stLc o, .stLstk (o + 4), .stLpa (o + 8)]

/-- The lines that restore it, in the reverse order (R147). -/
def restoreSet (o : Nat) : List Instr := [.ldLpa (o + 8), .ldLstk (o + 4), .ldLc o]

/-- The nineteen lines of `chess_isr_envelope_open()` (R146). -/
def envelopeOpen : List Instr :=
  [.spAdd (-56), .stLcp 0] ++ .lcpSet 0 :: saveSet 4 ++ .lcpSet 1 :: saveSet 16 ++ .lcpSet 2 :: saveSet 28 ++
    .lcpSet 3 :: saveSet 40 ++ [.lcpSet 4]

/-- The eighteen lines of `chess_isr_envelope_close()` (R147). -/
def envelopeClose : List Instr :=
  .lcpSet 3 :: restoreSet 40 ++ .lcpSet 2 :: restoreSet 28 ++ .lcpSet 1 :: restoreSet 16 ++
    .lcpSet 0 :: restoreSet 4 ++ [.ldLcp 0, .spAdd 56]

/-- The two printed lines of the nested-interrupt `chess_isr_envelope_open()` (R148). -/
def nestedEnvelopeOpening : List Line := [⟨.nop, some (.spAdd (-8))⟩, ⟨.nop, some (.stSr 0)⟩]

/-- Instructions executed one after another, stopping at the first fault or refusal. -/
def execAll : List Instr → State → Result
  | [], s => .next s
  | i :: is, s =>
    match exec i s with
    | .next t => execAll is t
    | .fault f => .fault f
    | .refused r => .refused r

end Sys2Proof.Machine
end

