-- ==== Sys2Proof/Safety.lean ====
section
/-! DEFINITION. What counts as a safe run, and the invariants claims are stated with. -/

namespace Sys2Proof

open Machine

/-- The step from `s` answers a next state: no fault and no refusal (60_exceptions.md R200: both are the model's own
outcomes). -/
def StepsOn (s : State) : Prop := ∃ t, step s = .next t

/-- The machine runs `n` steps from `s` with no fault and no refusal. -/
def RunsSafely : Nat → State → Prop
  | 0, _ => True
  | n + 1, s => ∃ t, step s = .next t ∧ RunsSafely n t

/-- The loop registers hold no bit above their widths (10_state.md R32). -/
def LoopSet.fits (p : Params) (x : LoopSet) : Prop :=
  x.lc.toNat < 2 ^ p.lcW ∧ x.lstk.toNat < 2 ^ p.lstkW ∧ x.lpa.toNat < 2 ^ p.lpaW

/-- Every register holds a value of its own width, and the lists of State have their canonical form. -/
structure WellKept (s : State) : Prop where
  /-- The open parameters are within the spec's bounds (00_scope.md R7). -/
  par : s.par.lawful = true
  /-- PC holds an address of PCW bits (10_state.md R20, 00_scope.md R9). -/
  pc : s.pc < 2 ^ s.par.pcw
  /-- ILR has the width of PC (10_state.md R21). -/
  ilr : s.ilr < 2 ^ s.par.pcw
  /-- SP is an address of AW bits (10_state.md R30). -/
  sp : s.sp < 2 ^ s.par.aw
  /-- SR holds only the bits its layout has (10_state.md R22). -/
  sr : s.sr.fits s.par.srLayout = true
  /-- The loop registers fit their widths (10_state.md R32). -/
  loops : ∀ i, LoopSet.fits s.par (s.loopSet i)
  /-- Data memory has its canonical form. -/
  mem : Memory.wf s.mem = true
  /-- So have the general registers. -/
  regs : Registers.wf s.regs = true
  /-- Every byte of data memory lies in the AW-bit address space (10_state.md R30). -/
  memRange : ∀ c ∈ s.mem, c.1 < 2 ^ s.par.aw
  /-- Program memory has its canonical form: each address starts one line (20_memory.md R62). -/
  pm : keysRise s.pm = true

/-- The last change of `powerdown_out` in a history, newest first; low where there is none. -/
def powerdownLevel : List Event → Bool
  | [] => false
  | .powerdownOut b :: _ => b
  | _ :: h => powerdownLevel h

/-- The history's record of `powerdown_out` agrees with the run state (10_state.md R37, R43). -/
def HistoryAgrees (s : State) : Prop := powerdownLevel s.history = s.powerdownOut

/-- What software cannot write: the program and the open parameters (20_memory.md R62, 00_scope.md R7). -/
def SameProgram (s t : State) : Prop := t.pm = s.pm ∧ t.par = s.par

end Sys2Proof
end

