-- ==== Sys2Proof/Certificates/Slice0/Obligations.lean ====
section
/-! DEFINITION. The statements made of the model, for the provers. Each says which sentence of spec/ it formalises.
`npc` is next(a) of the executing line: `StepRunsTheLineAtPc` says what it holds. -/

namespace Sys2Proof.Claims

open Machine

/-! ## The words the statements use -/

/-- The registers that move between the core and the stack (43_stack_loopregs.md). -/
inductive MovedReg where
  | lcp | lc | lstk | lpa | sr | ilr
  deriving DecidableEq, Repr

/-- `sp[o] = r`. -/
def MovedReg.store (o : Nat) : MovedReg → Instr
  | .lcp => .stLcp o
  | .lc => .stLc o
  | .lstk => .stLstk o
  | .lpa => .stLpa o
  | .sr => .stSr o
  | .ilr => .stIlr o

/-- `r = sp[o]`. -/
def MovedReg.load (o : Nat) : MovedReg → Instr
  | .lcp => .ldLcp o
  | .lc => .ldLc o
  | .lstk => .ldLstk o
  | .lpa => .ldLpa o
  | .sr => .ldSr o
  | .ilr => .ldIlr o

/-- The width of a register, an open parameter. -/
def MovedReg.width (p : Params) : MovedReg → Nat
  | .lcp => p.lcpW
  | .lc => p.lcW
  | .lstk => p.lstkW
  | .lpa => p.lpaW
  | .sr => p.srLayout.length
  | .ilr => p.pcw

/-- Whether the name means a register of the window LCP selects. -/
def MovedReg.windowed : MovedReg → Bool
  | .lc | .lstk | .lpa => true
  | .lcp | .sr | .ilr => false

/-- The value a register's name has: none for a window register while LCP = 4. -/
def MovedReg.value (s : State) : MovedReg → Option Word
  | .lcp => some (BitVec.ofNat 32 s.lcp.val)
  | .lc => s.window.map fun i => (s.loopSet i).lc
  | .lstk => s.window.map fun i => (s.loopSet i).lstk
  | .lpa => s.window.map fun i => (s.loopSet i).lpa
  | .sr => some (s.sr.image s.par.srLayout)
  | .ilr => some (BitVec.ofNat 32 s.ilr)

/-- The slot `sp[o]` names can be accessed. -/
def SlotReady (s : State) (o : Nat) : Prop := o % 4 = 0 ∧ Params.slotAdmitted s.par (s.slotAddr o) = true

/-- The slot `sp[o]` names can be accessed and holds `w`. -/
def SlotHolds (s : State) (o : Nat) (w : Word) : Prop :=
  SlotReady s o ∧ Memory.readSlot s.par.bigEndian s.mem (s.slotAddr o) = some w

/-- Every byte outside the 4 from `a` reads as before. -/
def OnlySlotChanged (a : Nat) (s t : State) : Prop :=
  ∀ c, c < a ∨ a + 4 ≤ c → Memory.read t.mem c = Memory.read s.mem c

/-- Input `k` is HIGH and unmasked (R176, Elig_now). -/
def Eligible (s : State) (k : Fin 15) : Prop := s.irqInp.getLsbD k = true ∧ s.imsk.getLsbD k = true

/-- Input `k` is HIGH and is unmasked or was before the last line (R176, Elig_win). -/
def EligibleInWindow (s : State) (k : Fin 15) : Prop :=
  s.irqInp.getLsbD k = true ∧ (s.imsk.getLsbD k = true ∨ s.imskPrev.getLsbD k = true)

/-- The normal way of R176 accepts input `k`. -/
def NormalWay (s : State) (k : Fin 15) : Prop :=
  s.sr.ie = true ∧ Eligible s k ∧ ∀ j < k, ¬ Eligible s j

/-- The stale way of R176 accepts input `k`. -/
def StaleWay (s : State) (k : Fin 15) : Prop :=
  (s.sr.ie = true ∨ s.iePrev = true) ∧ EligibleInWindow s k ∧ ∀ j < k, ¬ EligibleInWindow s j

/-- What may wake a halted core: `resume`, a request that is HIGH, unmasked and enabled, or, where WAKE_NEEDS_ENABLE
does not hold, any HIGH input (R207, D26). -/
def WakeAllowed (s : State) : Prop :=
  s.resume = true ∨ (s.sr.ie = true ∧ ∃ k, Eligible s k) ∨
    (s.par.wakeNeedsEnable = false ∧ ∃ k : Fin 15, s.irqInp.getLsbD k = true)

/-- The core runs an admitted program and is at an operation of it, `p`. -/
def AtOperation (s : State) (p : Placed) : Prop :=
  s.run = .running ∧ programDefect s.par s.pm = none ∧ s.operationAt s.pc = some p

/-- The state after the wake step, `rest` the agenda left (R207; the hidden values as R42 has them, log entry 16). -/
def Woken (s : State) (rest : List Move) : State :=
  { s with
    run := .running
    agenda := rest
    iackOut := 0
    history := .powerdownOut false :: s.history
    iePrev := s.iePrev || s.sr.ie
    imskPrev := s.imskPrev ||| s.imsk }

/-- The state after the entry sequence for input `k`, `rest` the agenda left (R180). `returned` is the model's own
(log entry 21). -/
def Entered (s : State) (k : Fin 15) (rest : List Move) : State :=
  { s with
    ilr := s.pc
    sr := { s.sr with ie0 := s.sr.ie, other0 := s.sr.srmeOther, ie := false }
    pc := 2 * (k.val + 1)
    returned := false
    iePrev := false
    imskPrev := s.imsk
    iackOut := BitVec.ofNat 15 (2 ^ k.val)
    history := .iack k :: s.history
    agenda := rest }

/-- The state in which the line at PC, `size` units long, executes (R42: the boundary before it is passed). `npc` and
`returned` are the model's own (log entries 4 and 21). -/
def Executing (s : State) (size : Nat) (rest : List Move) : State :=
  { s with
    npc := s.pc + size
    returned := false
    iePrev := s.sr.ie
    imskPrev := s.imsk
    iackOut := 0
    agenda := rest }

/-- From `s` to `t` interrupt number `n` is taken, `ret` the address saved: entry `n` of the one vector table, and the
registers every entry writes (R180, R212; the window closed by decision D11). -/
def TakenAt (n ret : Nat) (s t : State) : Prop :=
  t.pc = 2 * n ∧ t.ilr = ret ∧ t.sr = { s.sr with ie0 := s.sr.ie, other0 := s.sr.srmeOther, ie := false } ∧
    t.iePrev = false ∧ t.imskPrev = s.imsk

/-- The core's registers and memories are the same in both. -/
def SameCore (s t : State) : Prop :=
  t.pc = s.pc ∧ t.ilr = s.ilr ∧ t.sr = s.sr ∧ t.imsk = s.imsk ∧ t.sp = s.sp ∧ t.lcp = s.lcp ∧ t.loops = s.loops ∧
    t.regs = s.regs ∧ t.mem = s.mem ∧ t.pm = s.pm

/-- The state apart from what `sint` on a vector other than 0 may write. -/
def SameButEntry (s t : State) : Prop :=
  t.par = s.par ∧ t.npc = s.npc ∧ t.imsk = s.imsk ∧ t.sp = s.sp ∧ t.lcp = s.lcp ∧ t.loops = s.loops ∧
    t.regs = s.regs ∧ t.mem = s.mem ∧ t.pm = s.pm ∧ t.irqInp = s.irqInp ∧ t.resume = s.resume ∧ t.run = s.run ∧
    t.agenda = s.agenda

/-- What a `sint` from `s` to `t` may pulse (D14): some set `m` of acknowledge outputs, each of its members recorded once
and nothing else. Nothing is said of `m`, but where SINT_PULSES_IACK is false it is empty. `draws` is the model's own
(log entry 13). -/
def MayAcknowledge (s t : State) : Prop :=
  ∃ (m : IrqLines) (es : List Event), t.iackOut = s.iackOut ||| m ∧ t.history = es ++ s.history ∧ es.Nodup ∧
    (∀ e, e ∈ es ↔ ∃ k : Fin 15, m.getLsbD k = true ∧ e = .iack k) ∧
    (s.par.sintPulsesIack = false → m = 0 ∧ t.draws = s.draws) ∧
    (s.par.sintPulsesIack = true → t.draws = s.draws + 1)

/-- The instructions that may write each register: the "written by" column of 10_state.md section 8. -/
def writesIlr : Instr → Bool
  | .sint _ | .ldIlr _ => true
  | _ => false

def writesIe : Instr → Bool
  | .ieSet _ | .sint _ | .reti | .ldSr _ => true
  | _ => false

def writesSrmeOther : Instr → Bool
  | .reti | .ldSr _ => true
  | _ => false

def writesBackup : Instr → Bool
  | .sint _ | .ldSr _ => true
  | _ => false

def writesWholeSr : Instr → Bool
  | .ldSr _ => true
  | _ => false

def writesImsk : Instr → Bool
  | .imskSet _ | .setInterruptMask _ => true
  | _ => false

def writesSp : Instr → Bool
  | .spAdd _ => true
  | _ => false

def writesLcp : Instr → Bool
  | .lcpSet _ | .ldLcp _ => true
  | _ => false

def writesLoops : Instr → Bool
  | .ldLc _ | .ldLstk _ | .ldLpa _ => true
  | _ => false

def writesRegs : Instr → Bool
  | .getInterruptMask _ | .getIrqStat _ => true
  | _ => false

def writesMemory : Instr → Bool
  | .stLcp _ | .stLc _ | .stLstk _ | .stLpa _ | .stSr _ | .stIlr _ => true
  | _ => false

def writesRun : Instr → Bool
  | .powerdown => true
  | _ => false

/-- Two machines alike but for the byte order of data memory: they hold the same value in every slot. -/
def AlikeButByteOrder (s s' : State) : Prop :=
  s' = { s with par := { s.par with bigEndian := !s.par.bigEndian }, mem := s'.mem } ∧
    ∀ a, a % 4 = 0 →
      Memory.readSlot s.par.bigEndian s.mem a = Memory.readSlot s'.par.bigEndian s'.mem a

end Sys2Proof.Claims

open Sys2Proof Sys2Proof.Machine Sys2Proof.Claims

/-! ## Control: 41_jp_nop.md, 40_sint_reti.md, 44_powerdown.md -/

/-- R110: "It sets `PC` to the address of the symbol and changes nothing else.", for every address of the PCW-bit
program memory. -/
def Obligations.JumpSetsOnlyThePc : Prop :=
  ∀ (T : Nat) (s : State), T < 2 ^ s.par.pcw → exec (.jp T) s = .next { s with pc := T }

/-- 20_memory.md section 2 (93 U11): a jump to a number that is no address of PCW bits is stuck. That it is stuck in the
jump's own step is the model's choice (log entry 12). -/
def Obligations.JumpOutsideProgramMemoryIsStuck : Prop :=
  ∀ (T : Nat) (s : State), s.par.lawful = true → 2 ^ s.par.pcw ≤ T → exec (.jp T) s = .fault .fetchOutsideProgram

/-- R111: "`nop` does nothing but advance `PC`", and "As one side of a two-operation line it contributes nothing and
the line means its other side". -/
def Obligations.NopOnlyAdvancesThePc : Prop :=
  (∀ s : State, exec .nop s = .next { s with pc := s.npc }) ∧
    ∀ a : Instr, Line.op ⟨a, some .nop⟩ = some a ∧ Line.op ⟨.nop, some a⟩ = some a

/-- R101: PC <- ILR, SR.IE <- SR.SRME0.IE, SR.SRME_OTHER <- SR.SRME0.OTHER, and nothing else of the machine changes;
`returned` is the model's own (log entry 21). -/
def Obligations.ReturnRestoresPcAndSrme : Prop :=
  ∀ s : State, ∃ t, exec .reti s = .next t ∧
    t = { s with
      pc := s.ilr, sr := { s.sr with ie := s.sr.ie0, srmeOther := s.sr.other0 }, returned := t.returned }

/-- 40_sint_reti.md, the pseudocode of `sint` for `v` not 0, whatever IE and IMSK are. ILR takes SintReturn(a), the open
parameter: next(a), or the address of the `nop` inside the line (decision D13, log entry 21). The hidden window is the
spec's decision D11. Whether acknowledge outputs are pulsed (SINT_PULSES_IACK, decision D14) and which stays open (log
entry 13). -/
def Obligations.SoftwareInterruptTakesTheEntry : Prop :=
  ∀ (v : Nat) (s : State), v % 2 = 0 → 0 < v → v ≤ 30 →
    ∃ t, exec (.sint v) s = .next t ∧ t.pc = v ∧
      (s.par.sintReturn = .lineAfter → t.ilr = s.npc) ∧
      (∀ k, s.par.sintReturn = .itsNop k → t.ilr = if s.pc + k < s.npc then s.pc + k else s.npc) ∧
      t.sr = { s.sr with ie0 := s.sr.ie, other0 := s.sr.srmeOther, ie := false } ∧
      t.iePrev = false ∧ t.imskPrev = s.imsk ∧ SameButEntry s t ∧ MayAcknowledge s t

/-- 40_sint_reti.md corner case 4 (decision D13): "both resume identically". From the line `sint v ; nop`, `n` units
long, of an admitted program with a line after it, entry and `reti` lead to that line with SRME as it was: at once, or
after the one step of the `nop`, which changes nothing but PC (and the step's own latches), by the open parameter
SintReturn (log entry 21). -/
def Obligations.SoftwareInterruptResumesAfterItsLine : Prop :=
  ∀ (v n : Nat) (s : State), s.par.lawful = true → s.run = .running → programDefect s.par s.pm = none →
    s.lineAt s.pc = some ⟨⟨.sint v, some .nop⟩, n⟩ → s.npc = s.pc + n → (s.lineAt s.npc).isSome = true →
    (v ≠ 0 ∨ s.par.irq0FullEntry = true) →
    ∃ t u, exec (.sint v) s = .next t ∧ exec .reti t = .next u ∧
      u.sr.ie = s.sr.ie ∧ u.sr.srmeOther = s.sr.srmeOther ∧
      (s.par.sintReturn = .lineAfter → u.pc = s.npc) ∧
      ∀ k, s.par.sintReturn = .itsNop k →
        (n ≤ k → u.pc = s.npc) ∧
        (k < n → u.pc = s.pc + k ∧ ∀ rest, step { u with agenda := .line :: rest } =
          .next { Executing u (n - k) rest with pc := s.npc })

/-- R222: "only the PC is set to zero and other registers are not reset"; "After it `IMSK`, `SP`, the loop registers,
`regs` and memory hold what they held; in particular `IMSK` is not returned to `0x7FFF`." -/
def Obligations.SoftResetKeepsTheRegisters : Prop :=
  ∀ s : State, ∃ t, exec (.sint 0) s = .next t ∧ t.pc = 0 ∧ t.imsk = s.imsk ∧ t.sp = s.sp ∧ t.lcp = s.lcp ∧
    t.loops = s.loops ∧ t.regs = s.regs ∧ t.mem = s.mem ∧ t.sr.v = s.sr.v ∧ t.sr.n = s.sr.n ∧ t.sr.z = s.sr.z ∧
    t.sr.srmeOther = s.sr.srmeOther ∧ t.sr.rest = s.sr.rest ∧ t.run = s.run

/-- 60_exceptions.md section 6 (decision D15): `sint 0` performs the whole entry sequence with vector 0, or writes
the pc alone; which, is the open parameter IRQ0_FULL_ENTRY. In the entry ILR takes SintReturn(a), an open parameter
(decision D13, log entry 21), and the hidden window is decision D11. Whether acknowledge outputs are pulsed
(SINT_PULSES_IACK, decision D14) and which stays open in both (log entry 13). -/
def Obligations.SoftResetIsFullEntryOrPcAlone : Prop :=
  ∀ s : State, ∃ t, exec (.sint 0) s = .next t ∧ MayAcknowledge s t ∧
    (s.par.irq0FullEntry = false →
      t = { s with pc := 0, iackOut := t.iackOut, history := t.history, draws := t.draws }) ∧
    (s.par.irq0FullEntry = true →
      t = { s with
        pc := 0, ilr := s.sintReturn, sr := { s.sr with ie0 := s.sr.ie, other0 := s.sr.srmeOther, ie := false },
        returned := false, iePrev := false, imskPrev := s.imsk, iackOut := t.iackOut, history := t.history,
        draws := t.draws })

/-- 44_powerdown.md, `powerdown`: "While running the program if powerdown instruction is executed, core will be halted and powerdown_out
signal is asserted"; PC <- next(a), nothing else changes; and "While `run = PowerDown` the core executes no line". -/
def Obligations.PowerdownHaltsTheCore : Prop :=
  (∀ s : State, s.run = .running → exec .powerdown s =
    .next { s with pc := s.npc, run := .powerDown, history := .powerdownOut true :: s.history }) ∧
  (∀ s : State, s.powerdownOut = true ↔ s.run = .powerDown) ∧
  ∀ (s : State) (rest : List Move), s.run = .powerDown → s.agenda = .line :: rest →
    ∃ t, step s = .next t ∧ SameCore s t ∧ t.run = .powerDown ∧ t.history = s.history

/-! ## Enable, mask and status: 42_ie_imsk_irqstat.md -/

/-- R120: `SR.IE <- u ; PC <- next(a)`; nothing else changes. -/
def Obligations.EnableWriteSetsIe : Prop :=
  ∀ s : State,
    exec (.ieSet 1) s = .next { s with pc := s.npc, sr := { s.sr with ie := true } } ∧
    exec (.ieSet 0) s = .next { s with pc := s.npc, sr := { s.sr with ie := false } }

/-- 42_ie_imsk_irqstat.md, `imsk = imm`: `IMSK <- m ; PC <- next(a)`, for every immediate the spec admits (its
generalisation of the one shown, decision D30). -/
def Obligations.MaskWriteOfAnImmediate : Prop :=
  ∀ (m : Nat) (s : State), m ≤ 0x7FFF →
    ∃ t, exec (.imskSet m) s = .next t ∧ t.imsk.toNat = m ∧ t = { s with pc := s.npc, imsk := t.imsk }

/-- 42_ie_imsk_irqstat.md, `set_interrupt_mask`: `IMSK <- m[14:0]`, the bits above ignored (decision D30). -/
def Obligations.MaskWriteOfARegister : Prop :=
  ∀ (r : Nat) (s : State),
    ∃ t, exec (.setInterruptMask r) s = .next t ∧ (∀ k : Fin 15, t.imsk.getLsbD k = (s.reg r).getLsbD k) ∧
      t = { s with pc := s.npc, imsk := t.imsk }

/-- 42_ie_imsk_irqstat.md, `get_interrupt_mask`: the destination takes `zext_32(IMSK)`; no state changes but PC and
the destination (decision D30). -/
def Obligations.MaskReadZeroExtends : Prop :=
  ∀ (r : Nat) (s : State), Registers.wf s.regs = true →
    ∃ t, exec (.getInterruptMask r) s = .next t ∧ (t.reg r).toNat = s.imsk.toNat ∧
      (∀ q, q ≠ r → t.reg q = s.reg q) ∧ t = { s with pc := s.npc, regs := t.regs }

/-- 42_ie_imsk_irqstat.md, `get_irq_stat` (decision D16): bit `k` of the destination is the level of input `k`, the
bits above 14 are 0. Said of unmasked inputs only, as its corner case 2 asks. -/
def Obligations.StatusReadShowsUnmaskedRequests : Prop :=
  ∀ (r : Nat) (s : State), Registers.wf s.regs = true →
    ∃ t, exec (.getIrqStat r) s = .next t ∧
      (∀ k : Fin 15, s.imsk.getLsbD k = true → (t.reg r).getLsbD k = s.irqInp.getLsbD k) ∧
      (t.reg r).toNat < 2 ^ 15 ∧ (∀ q, q ≠ r → t.reg q = s.reg q) ∧ t = { s with pc := s.npc, regs := t.regs }

/-! ## The stack: 43_stack_loopregs.md -/

/-- 43_stack_loopregs.md, `sp += n`: `SP <- (SP + n) mod 2^AW`. The sum modulo 2^AW, wrap included, is the spec's
decision D21 and its K1, which it takes from general knowledge (log entry 27, PRESUMED). That V, N and Z stay is its
decision D37. -/
def Obligations.StackPointerAddsModulo : Prop :=
  ∀ (n : Int) (s : State),
    ∃ t, exec (.spAdd n) s = .next t ∧ (t.sp : Int) = ((s.sp : Int) + n) % (2 ^ s.par.aw : Nat) ∧
      t = { s with pc := s.npc, sp := t.sp }

/-- R143: `LCP <- i ; PC <- next(a)`; "writing `LCP` does not change any `LC[i]`, `LSTK[i]`, `LPA[i]`". -/
def Obligations.LoopPointerImmediate : Prop :=
  ∀ (i : Fin 5) (s : State), exec (.lcpSet i.val) s = .next { s with pc := s.npc, lcp := i }

/-- 43_stack_loopregs.md, the six stores: where the slot is admitted and the name means a register, `sp[o] = r`
writes a word there that unpacks to the register's value (decision D28), records the write, and changes nothing else;
every byte outside the slot reads as before. -/
def Obligations.StoreWritesOneSlot : Prop :=
  ∀ (r : MovedReg) (o : Nat) (s : State) (v : Word), WellKept s → SlotReady s o → r.value s = some v →
    ∃ t w, exec (r.store o) s = .next t ∧ Memory.readSlot t.par.bigEndian t.mem (s.slotAddr o) = some w ∧
      unpack (r.width s.par) w = v ∧ OnlySlotChanged (s.slotAddr o) s t ∧
      t = { s with
            pc := s.npc, mem := t.mem, history := .memWrite (s.slotAddr o) w :: s.history, draws := s.draws + 1 }

/-- 43_stack_loopregs.md, `lcp = sp[o]`: where the slot unpacks to at most 4, LCP takes that value. -/
def Obligations.LoadLoopPointer : Prop :=
  ∀ (o : Nat) (s : State) (w : Word), SlotHolds s o w → (unpack s.par.lcpW w).toNat ≤ 4 →
    ∃ t, exec (.ldLcp o) s = .next t ∧ t.lcp.val = (unpack s.par.lcpW w).toNat ∧
      t = { s with pc := s.npc, lcp := t.lcp }

/-- 43_stack_loopregs.md, `lc`, `lstk`, `lpa = sp[o]` with LCP = i in 0 to 3: that register of set `i` takes the
slot's value; the set's other two registers and the other sets stay (decision D27). -/
def Obligations.LoadLoopRegister : Prop :=
  ∀ (o : Nat) (s : State) (w : Word) (i : Fin 4), SlotHolds s o w → s.lcp.val = i.val →
    (∃ t, exec (.ldLc o) s = .next t ∧ t.loopSet i = { s.loopSet i with lc := unpack s.par.lcW w } ∧
      (∀ j, j ≠ i → t.loopSet j = s.loopSet j) ∧ t = { s with pc := s.npc, loops := t.loops }) ∧
    (∃ t, exec (.ldLstk o) s = .next t ∧ t.loopSet i = { s.loopSet i with lstk := unpack s.par.lstkW w } ∧
      (∀ j, j ≠ i → t.loopSet j = s.loopSet j) ∧ t = { s with pc := s.npc, loops := t.loops }) ∧
    ∃ t, exec (.ldLpa o) s = .next t ∧ t.loopSet i = { s.loopSet i with lpa := unpack s.par.lpaW w } ∧
      (∀ j, j ≠ i → t.loopSet j = s.loopSet j) ∧ t = { s with pc := s.npc, loops := t.loops }

/-- 43_stack_loopregs.md, `sr = sp[o]`: every bit of SR takes the bit of the slot in its place, for every layout the
spec allows. -/
def Obligations.LoadStatusRegister : Prop :=
  ∀ (o : Nat) (s : State) (w : Word), srLayoutLawful s.par.srLayout = true → SlotHolds s o w →
    ∃ t, exec (.ldSr o) s = .next t ∧
      (∀ b ∈ s.par.srLayout, t.sr.get b = w.getLsbD (s.par.srLayout.idxOf b)) ∧
      t.sr.fits s.par.srLayout = true ∧ t = { s with pc := s.npc, sr := t.sr }

/-- 43_stack_loopregs.md, `ilr = sp[o]`: ILR takes the low PCW bits of the slot. -/
def Obligations.LoadLinkRegister : Prop :=
  ∀ (o : Nat) (s : State) (w : Word), SlotHolds s o w →
    exec (.ldIlr o) s = .next { s with pc := s.npc, ilr := w.toNat % 2 ^ s.par.pcw }

/-- 43_stack_loopregs.md, section "Helpers" (decision D28): a store followed by a load of the same register from the
same slot restores it exactly, whatever has become of the register in between. -/
def Obligations.LoadRestoresWhatWasStored : Prop :=
  ∀ (r : MovedReg) (o : Nat) (s t u : State), WellKept s → exec (r.store o) s = .next t →
    u.par = t.par → u.mem = t.mem → u.sp = t.sp → (r.windowed = true → u.lcp = s.lcp) →
    ∃ x, exec (r.load o) u = .next x ∧ r.value x = r.value s

/-- 43_stack_loopregs.md, section "Helpers" (decision D27): with LCP = 4 the names `lc`, `lstk`, `lpa` are refused
by name, stored or loaded. -/
def Obligations.WindowRefusedAtFour : Prop :=
  ∀ (r : MovedReg) (o : Nat) (s : State), r.windowed = true → o % 4 = 0 → s.lcp = 4 →
    exec (r.store o) s = .refused .loopRegisterAccessWithLcp4 ∧
    exec (r.load o) s = .refused .loopRegisterAccessWithLcp4

/-- 20_memory.md section 3 (decisions D20, D21): an access outside the stack region or not 4-aligned is refused by
name. -/
def Obligations.AccessOutsideTheStackRefused : Prop :=
  ∀ (r : MovedReg) (o : Nat) (s : State) (v : Word), o % 4 = 0 → r.value s = some v →
    Params.slotAdmitted s.par (s.slotAddr o) = false →
    exec (r.store o) s = .refused .unadmittedDataAccess ∧ exec (r.load o) s = .refused .unadmittedDataAccess

/-- 20_memory.md section 3 (decision D9): a load from a slot that nothing has written since reset faults. -/
def Obligations.LoadOfUnwrittenSlotFaults : Prop :=
  ∀ (r : MovedReg) (o : Nat) (s : State) (v : Word), SlotReady s o → r.value s = some v →
    Memory.readSlot s.par.bigEndian s.mem (s.slotAddr o) = none → exec (r.load o) s = .fault .readOfUnwrittenState

/-- 43_stack_loopregs.md, `lcp = sp[o]` (93 U9): a value above 4 faults. -/
def Obligations.LoopPointerAboveFourFaults : Prop :=
  ∀ (o : Nat) (s : State) (w : Word), SlotHolds s o w → 4 < (unpack s.par.lcpW w).toNat →
    exec (.ldLcp o) s = .fault .lcpOutOfRange

/-- 43_stack_loopregs.md, "The sequences the source gives": after the open envelope SP is 56 lower, LCP is 4 and the
twelve loop registers are as they were; the close envelope, run in any state with that stack and SP, puts the twelve
registers, LCP and SP back. -/
def Obligations.EnvelopeRestoresTheLoops : Prop :=
  ∀ s : State, WellKept s → 56 ≤ s.sp → s.sp % 4 = 0 → s.par.stackLo ≤ s.sp - 56 → s.sp ≤ s.par.stackHi →
    ∃ t, execAll envelopeOpen s = .next t ∧ t.sp = s.sp - 56 ∧ t.lcp = 4 ∧ t.loops = s.loops ∧
      ∀ u : State, u.par = t.par → u.mem = t.mem → u.sp = t.sp →
        ∃ x, execAll envelopeClose u = .next x ∧ x.loops = s.loops ∧ x.lcp = s.lcp ∧ x.sp = s.sp

/-! ## Admission of lines: 30_encoding.md -/

/-- 30_encoding.md section 5 (93 U1, U4): which operands the spec does not admit, and the name of each refusal. The spec
refuses them where a line is admitted to a program, not at run time; that `exec` by itself refuses them too, which no
step puts to the test, is the model's choice (log entry 10). -/
def Obligations.InadmissibleOperandRefused : Prop :=
  ∀ (i : Instr) (d : Defect) (s : State), i.defect = some d → exec i s = .refused (.notAdmitted d)

/-- 30_encoding.md section 5 (93 U1 to U4): a program with a line the spec does not admit is refused by name where it is
loaded. Where it stands in program memory all the same, no line of it runs and no interrupt is accepted in it: every
such step answers that refusal (log entry 10, the model's choice). -/
def Obligations.InadmissibleLineRefused : Prop :=
  (∀ (s : State) (pm : List (Nat × Placed)), (∃ e ∈ pm, e.2.defect ≠ none) →
    ∃ d, s.loadProgram pm = .refused (.notAdmitted d)) ∧
  (∀ (s : State) (a : Nat) (p : Placed) (d : Defect), p.defect = some d →
    s.loadProgram [(a, p)] = .refused (.notAdmitted d)) ∧
  ∀ (s : State) (d : Defect) (rest : List Move), s.run = .running → programDefect s.par s.pm = some d →
    (s.agenda = .line :: rest → step s = .refused (.notAdmitted d)) ∧
    ∀ k, s.agenda = .accept k :: rest → NormalWay s k ∨ StaleWay s k → step s = .refused (.notAdmitted d)

/-- 30_encoding.md section 5: the text of a line the spec does not admit is turned away under the defect's name. -/
def Obligations.InadmissibleTextRefused : Prop :=
  ∀ (l : Line) (d : Defect), l.defect = some d → admitText (encodeLine l) = .refused d

/-- 70_reset_and_hazards.md section 3, 20_memory.md section 2 and 93 U12: a program is loaded only where it is admitted
as a whole, and then every line of it is admitted, no other line starts inside it, and it ends inside the PCW-bit
program memory. That the last is a ground for refusing a program is the model's choice (log entry 10). -/
def Obligations.AdmittedProgramHasOnlyAdmittedLines : Prop :=
  ∀ (s t : State) (pm : List (Nat × Placed)) (a : Nat) (p : Placed), s.par.lawful = true →
    s.loadProgram pm = .next t → t.lineAt a = some p →
    p.defect = none ∧ (∀ e ∈ pm, ¬ (a < e.1 ∧ e.1 < a + p.size)) ∧ a + p.size ≤ 2 ^ s.par.pcw ∧ t = { s with pm := pm }

/-- 30_encoding.md section 5: every line, with every operand its text can carry, is read back from its own text. -/
def Obligations.EncodedLineDecodes : Prop := ∀ l : Line, decode (encodeLine l) = .line l

/-- Texts of the source (95_test_vectors.md part 1) decode to the lines they are. -/
def Obligations.SourceTextsDecode : Prop :=
  decode (bytesOf "sint 4; nop /*software interrupt */".toList) = .line ⟨.sint 4, some .nop⟩ ∧
  decode (bytesOf "reti ; nop        //  2 - interrupt 1".toList) = .line ⟨.reti, some .nop⟩ ∧
  decode (bytesOf "imsk = 0; nop // all interrupts are masked".toList) = .line ⟨.imskSet 0, some .nop⟩ ∧
  decode (bytesOf "sp += -56".toList) = .line ⟨.spAdd (-56), none⟩ ∧
  decode (bytesOf "nop; sp[0] = sr".toList) = .line ⟨.nop, some (.stSr 0)⟩ ∧
  decode (bytesOf "lstk = sp[44]".toList) = .line ⟨.ldLstk 44, none⟩

/-! ## Steps: fetch, acceptance, wake, reset -/

/-- 30_encoding.md section 1 and 10_state.md section 7: with the next move a line, or no move left and nothing the
core must accept, the step of a running core is the instruction of the line at PC, executed with next(a) latched, the
acknowledge outputs low and the hidden window values set to IE and IMSK as the line finds them. An instruction that uses
next(a) needs a line there (10_state.md section 1). -/
def Obligations.StepRunsTheLineAtPc : Prop :=
  ∀ (s : State) (p : Placed) (i : Instr),
    (s.lineAt s.pc = some p → s.operationAt s.pc = some p) ∧
    (AtOperation s p → p.line.op = some i →
      (Instr.usesNext i = true → (s.lineAt (s.pc + p.size)).isSome = true) →
      (∀ rest, s.agenda = .line :: rest → step s = exec i (Executing s p.size rest)) ∧
      (s.agenda = [] → (∀ k, ¬ NormalWay s k) → step s = exec i (Executing s p.size [])))

/-- 30_encoding.md section 1: the encoding is the text. Where the text in the bits of `w` decodes to an admitted line
that means `i`, and it is loaded at PC as two units with a `nop` after it (log entries 1 and 4), the next step is `i`,
executed as `StepRunsTheLineAtPc` says. -/
def Obligations.DecodedTextRuns : Prop :=
  ∀ (s : State) (nbits w : Nat) (l : Line) (i : Instr), decodeTableLine nbits w = some l → l.op = some i →
    Params.inProgramMemory s.par (s.pc + 2) = true →
    decodeTableWord nbits w = some i ∧
    step (s.withFetchWord nbits w) =
      exec i (Executing { s with pm := lineProgram s.pc l, run := .running } 2 s.agenda)

/-- 20_memory.md section 2 (93 U11): a PC that is not the start of a line is stuck, also where a request could be
accepted (log entry 12). 10_state.md section 1: so is a line whose next(a), which its instruction uses, is not the
address of a line. A PC executes nothing but lines, but where a `reti` led to it and SintReturn is the address of a `nop`
inside a `sint` line (decision D13, log entry 21). -/
def Obligations.FetchOutsideTheProgramIsStuck : Prop :=
  ∀ (s : State) (rest : List Move), s.run = .running → programDefect s.par s.pm = none →
    (s.operationAt s.pc = none →
      (s.agenda = .line :: rest → step s = .fault .fetchOutsideProgram) ∧
      ∀ k, s.agenda = .accept k :: rest → NormalWay s k ∨ StaleWay s k → step s = .fault .fetchOutsideProgram) ∧
    (∀ p i, s.operationAt s.pc = some p → p.line.op = some i → Instr.usesNext i = true →
      s.lineAt (s.pc + p.size) = none → s.agenda = .line :: rest → step s = .fault .fetchOutsideProgram) ∧
    (s.par.sintReturn = .lineAfter ∨ s.returned = false → s.operationAt s.pc = s.lineAt s.pc)

/-- 20_memory.md section 2 (93 U11), "a jump into the middle of a line" among them: after a line other than `reti` (a
jump, a software interrupt) and after an accepted interrupt, a PC that is not the start of a line is stuck, whatever
SintReturn is: neither the next line nor an acceptance goes on. So only a return goes on inside a line (decision D13,
log entry 21). That an acceptance is stuck too is read from the rule's words (log entry 12). -/
def Obligations.OnlyReturnGoesOnInsideALine : Prop :=
  ∀ (s t : State) (m : Move) (rest : List Move), s.agenda = m :: rest →
    (m = .line ∧ (∃ p i, AtOperation s p ∧ p.line.op = some i ∧ i ≠ .reti) ∨
      ∃ k, m = .accept k ∧ s.mayAccept k = true) →
    step s = .next t → t.run = .running → t.lineAt t.pc = none →
    (t.agenda.head? = some .line ∨ ∃ k, t.agenda.head? = some (.accept k) ∧ (NormalWay t k ∨ StaleWay t k)) →
    step t = .fault .fetchOutsideProgram

/-- 60_exceptions.md section 3, "irq_inp [0] has the highest priority and irq_inp[14] has the lowest priority": of the
eligible inputs the lowest-numbered is chosen, and one is whenever any is eligible, on the levels and masks of the moment
(decision D18); and "it gives a higher input no power to interrupt a running ISR": right after an entry no input at all
is accepted. That the stale way accepts none there either holds because entry closes the window (decision D11, log entry
16). -/
def Obligations.LowestInputHasPriority : Prop :=
  (∀ m : IrqLines,
    (∀ k, lowestInput m = some k ↔ (m.getLsbD k = true ∧ ∀ j < k, m.getLsbD j = false)) ∧
    (lowestInput m = none ↔ m = 0)) ∧
  (∀ s : State, s.sr.ie = true → (∃ k, Eligible s k) →
    ∃ k, s.normalChoice = some k ∧ Eligible s k ∧ ∀ j < k, ¬ Eligible s j) ∧
  ∀ (s : State) (j k : Fin 15) (rest : List Move), (Entered s k rest).mayAccept j = false

/-- 60_exceptions.md section 3 (decision D11): when the request of input `k` can be accepted. -/
def Obligations.AcceptanceCondition : Prop :=
  ∀ (s : State) (k : Fin 15), s.mayAccept k = true ↔ s.run = .running ∧ (NormalWay s k ∨ StaleWay s k)

/-- 60_exceptions.md section 4: the entry step, ILR from PC, SRME0 from SRME before IE is cleared, the vector of
decision D2, the window closed, one acknowledge, and nothing else; taken when the next move accepts, or when no move is
left and the normal way holds (log entry 2). At a PC that starts no line, see `FetchOutsideTheProgramIsStuck`. -/
def Obligations.AcceptedInterruptEnters : Prop :=
  ∀ (s : State) (k : Fin 15) (p : Placed), AtOperation s p →
    (∀ rest, s.agenda = .accept k :: rest → NormalWay s k ∨ StaleWay s k → step s = .next (Entered s k rest)) ∧
    (s.agenda = [] → NormalWay s k → step s = .next (Entered s k []))

/-- 60_exceptions.md sections 2 to 4: an acknowledge is given only on acceptance. A step that adds `iack(k)` to the
history is an entry for an input that is HIGH, in the normal way or the stale way of R176: by the latter (decision D11,
log entry 16) it may be masked or disabled by the line just executed. The entry's vector is decision D2 (log entry 15).
The one other source is a line that means `sint`, where SINT_PULSES_IACK holds (decision D14, log entry 13). -/
def Obligations.AcknowledgeOnlyOnAcceptance : Prop :=
  ∀ (s t : State) (k : Fin 15) (es : List Event), step s = .next t → t.history = es ++ s.history → .iack k ∈ es →
    (s.run = .running ∧ (NormalWay s k ∨ StaleWay s k) ∧ t = Entered s k t.agenda) ∨
    (s.par.sintPulsesIack = true ∧ ∃ p v, AtOperation s p ∧ p.line.op = some (.sint v))

/-- 60_exceptions.md section 8, "there is one vector table and one level at which all interrupts are taken", and section
10. Every accepted input (input k at entry k + 1: decision D2) and every `sint`, from whatever state, enters the same
table of sixteen two-unit entries at 0 by the same sequence (of interrupt 0 only PC <- 0 is sure: decision D15); `sint`
has no operand outside the table. And there is no other way in: a step that changes ILR or the SRME backup is such an
entry, or software's load of `ilr` or `sr`, or a debugger's write or a hardware reset (log entries 17 and 25). -/
def Obligations.OneVectorTableOneLevel : Prop :=
  (∀ (s t : State) (k : Fin 15) (rest : List Move), s.agenda = .accept k :: rest → s.mayAccept k = true →
    step s = .next t → TakenAt (k.val + 1) s.pc s t) ∧
  (∀ (n : Nat) (s : State), n < 16 → ∃ t, exec (.sint (2 * n)) s = .next t ∧ t.pc = 2 * n ∧
    (n ≠ 0 ∨ s.par.irq0FullEntry = true → TakenAt n s.sintReturn s t)) ∧
  (∀ (v : Nat) (s t : State), exec (.sint v) s = .next t → ∃ n < 16, v = 2 * n) ∧
  ∀ s t : State, step s = .next t → t.ilr ≠ s.ilr ∨ t.sr.ie0 ≠ s.sr.ie0 ∨ t.sr.other0 ≠ s.sr.other0 →
    (∃ n < 16, TakenAt n t.ilr s t) ∨
    (∃ p o, AtOperation s p ∧ (p.line.op = some (.ldIlr o) ∨ p.line.op = some (.ldSr o))) ∨
    (∃ d, s.agenda.head? = some (.debugWrite d)) ∨ s.agenda.head? = some .hardReset

/-- 60_exceptions.md sections 4 and 5: what is accepted is returned from. The next `reti` after the entry resumes at
the interrupted boundary with SRME as it was; besides ILR, the backup, the hidden window, the acknowledge, the agenda
and the model's own `returned` (log entry 21) nothing has changed. -/
def Obligations.EntryThenReturnResumes : Prop :=
  ∀ (s t : State) (k : Fin 15) (rest : List Move), s.agenda = .accept k :: rest → s.mayAccept k = true →
    step s = .next t →
    exec .reti t = .next
      { s with
        ilr := s.pc, sr := { s.sr with ie0 := s.sr.ie, other0 := s.sr.srmeOther }, returned := true,
        iePrev := false, imskPrev := s.imsk, iackOut := BitVec.ofNat 15 (2 ^ k.val), history := .iack k :: s.history, agenda := rest }

/-- 10_state.md section 7 and 60_exceptions.md section 4 (decision D11): after a line that is no `sint`, the hidden
values are IE and IMSK as the line found them; so what the line before it cleared can no longer be accepted. -/
def Obligations.WindowLastsOneLine : Prop :=
  ∀ (s t : State) (rest : List Move) (p : Placed), s.run = .running → s.agenda = .line :: rest →
    s.operationAt s.pc = some p → (∀ v, p.line.op ≠ some (.sint v)) → step s = .next t →
    t.iePrev = s.sr.ie ∧ t.imskPrev = s.imsk

/-- 60_exceptions.md section 8 (decision D26): the wake step sets run to Running and de-asserts powerdown_out, on
`resume`, on a request that is HIGH, unmasked and enabled, or on any HIGH input where the open parameter
WAKE_NEEDS_ENABLE does not hold. The first two it makes by itself, with no move left. No other register or memory
changes, but the hidden window values accumulate: there the section says that no other state changes and 10_state.md
section 7 that they do, and following the latter is the model's choice (log entry 16). -/
def Obligations.WakeFromPowerDown : Prop :=
  ∀ s : State, s.run = .powerDown →
    (∀ rest, s.agenda = .wake :: rest → WakeAllowed s → step s = .next (Woken s rest)) ∧
    (s.agenda = [] → (s.resume = true ∨ (s.sr.ie = true ∧ ∃ k, Eligible s k)) → step s = .next (Woken s []))

/-- 60_exceptions.md section 8 (decision D26): what does not wake the core. A step out of power-down is a hardware reset,
or `resume` is HIGH, or a request is HIGH, unmasked and enabled, or some input is HIGH where WAKE_NEEDS_ENABLE does not
hold. -/
def Obligations.NothingElseWakes : Prop :=
  ∀ s t : State, s.run = .powerDown → step s = .next t → t.run ≠ .powerDown →
    s.agenda.head? = some .hardReset ∨ WakeAllowed s

/-- 60_exceptions.md section 8 (decisions D25, D26): a core in power-down or wait state always has a next state, and
unless that step is a hardware reset no register and no memory has changed and nothing is acknowledged. -/
def Obligations.HaltedCoreChangesNothing : Prop :=
  ∀ s : State, s.run = .powerDown ∨ s.run = .wait → s.agenda.head? ≠ some .hardReset →
    ∃ t, step s = .next t ∧ SameCore s t ∧ (∀ k, t.history ≠ .iack k :: s.history) ∧ t.iackOut = 0

/-- 60_exceptions.md section 8 (decision D25): in debug state no line runs and no interrupt is accepted. Without a
debugger's write (any, log entry 17) or a hardware reset no register and no memory changes; the pins, the run state and
the hidden window may. -/
def Obligations.DebugStateAcceptsNothing : Prop :=
  ∀ s : State, s.run = .debug → s.agenda.head? ≠ some .hardReset →
    ∃ t, step s = .next t ∧ t.history = s.history ∧ t.iackOut = 0 ∧
      ((∀ d, s.agenda.head? ≠ some (.debugWrite d)) → SameCore s t)

/-- 70_reset_and_hazards.md section 1: the effect of a hardware reset, in any run state. IE = 0 is the spec's decision
D8, the window values D11, program memory kept D31. -/
def Obligations.HardwareResetEffect : Prop :=
  ∀ (s : State) (rest : List Move), s.agenda = .hardReset :: rest →
    ∃ t, step s = .next t ∧ t.pc = 0 ∧ t.imsk = 0x7FFF ∧ t.sr.ie = false ∧ t.run = .running ∧ t.iackOut = 0 ∧
      t.powerdownOut = false ∧ t.iePrev = false ∧ t.imskPrev = 0x7FFF ∧ t.mem = [] ∧ t.pm = s.pm ∧ t.par = s.par ∧
      t.irqInp = s.irqInp ∧ t.resume = s.resume ∧ t.agenda = rest

/-- 10_state.md section 9: the values the spec gives for reset. PC and IMSK are the source's, the others the spec's
own (D8, D11, and its derivations). -/
def Obligations.ResetValues : Prop :=
  State.reset.pc = 0 ∧ State.reset.imsk = 0x7FFF ∧ State.reset.sr.ie = false ∧ State.reset.run = .running ∧
    State.reset.iackOut = 0 ∧ State.reset.powerdownOut = false ∧ State.reset.iePrev = false ∧
    State.reset.imskPrev = 0x7FFF ∧ ∀ a, Memory.read State.reset.mem a = none

/-- The model's choice (log entries 5, 6 and 9): the registers whose reset value the spec calls unspecified hold 0,
and LCP 4. -/
def Obligations.ChosenResetValues : Prop :=
  State.reset.ilr = 0 ∧ State.reset.sp = 0 ∧ State.reset.lcp = 4 ∧ (∀ i, State.reset.loopSet i = ⟨0, 0, 0⟩) ∧
    (∀ r, State.reset.reg r = 0) ∧ State.reset.sr = ⟨false, false, false, false, 0, false, 0, 0⟩

/-! ## Whole-machine rules -/

/-- 10_state.md section 8, the access table, for the instructions: what an instruction may write. V, N, Z and the
unnamed fields change by the whole-register load alone (decision D37). The clause on the general registers is not the
table's, which has nothing in scope write them: it is 30_encoding.md section 3 and 42_ie_imsk_irqstat.md, with the
model's numbered registers (log entry 9, the model's choice). -/
def Obligations.OnlyTheseInstructionsWrite : Prop :=
  ∀ (i : Instr) (s t : State), exec i s = .next t →
    (writesIlr i = false → t.ilr = s.ilr) ∧ (writesIe i = false → t.sr.ie = s.sr.ie) ∧
    (writesSrmeOther i = false → t.sr.srmeOther = s.sr.srmeOther) ∧
    (writesBackup i = false → t.sr.ie0 = s.sr.ie0 ∧ t.sr.other0 = s.sr.other0) ∧
    (writesWholeSr i = false → t.sr.v = s.sr.v ∧ t.sr.n = s.sr.n ∧ t.sr.z = s.sr.z ∧ t.sr.rest = s.sr.rest) ∧
    (writesImsk i = false → t.imsk = s.imsk) ∧ (writesSp i = false → t.sp = s.sp) ∧
    (writesLcp i = false → t.lcp = s.lcp) ∧ (writesLoops i = false → t.loops = s.loops) ∧
    (writesRegs i = false → t.regs = s.regs) ∧ (writesMemory i = false → t.mem = s.mem) ∧
    (writesRun i = false → t.run = s.run) ∧ t.irqInp = s.irqInp ∧ t.resume = s.resume ∧ t.agenda = s.agenda

/-- 20_memory.md sections 2 and 4 (decision D23) and 00_scope.md section 3: no step, of any agent, changes the program
or the open parameters. That a debugger does not is the model's choice (log entry 17): 60_exceptions.md section 8 lets
one change memory. -/
def Obligations.NoStepChangesTheProgram : Prop := ∀ s t : State, step s = .next t → SameProgram s t

/-- 20_memory.md section 3 (decision D20): byte order is unobservable. Two machines alike but for DM_ENDIAN, with the
same value in every slot, execute every instruction alike: where one goes on so does the other, to two such machines
(being alike so is symmetric). -/
def Obligations.ByteOrderIsUnobservable : Prop :=
  ∀ (i : Instr) (s s' t : State), AlikeButByteOrder s s' → exec i s = .next t →
    ∃ t', exec i s' = .next t' ∧ AlikeButByteOrder t t'

/-- The reset state meets `WellKept`. -/
def Obligations.ResetIsWellKept : Prop := WellKept State.reset

/-- Every step, of every agent, keeps every register within its own width (00_scope.md section 4, 10_state.md sections
1 to 5), the memories in canonical form and data memory inside its address space. PC stays within PCW bits because a
jump to any other number is stuck, a debugger's value is cut and every line lies in program memory (log entries 12, 17
and 10, the model's choices). -/
def Obligations.EveryStepKeepsWellKept : Prop := ∀ s t : State, WellKept s → step s = .next t → WellKept t

/-- 10_state.md sections 6 and 7: the reset state's history agrees with powerdown_out, and every step keeps the last
recorded change of powerdown_out equal to its level. -/
def Obligations.HistoryFollowsPowerdownOut : Prop :=
  HistoryAgrees State.reset ∧ ∀ s t : State, HistoryAgrees s → step s = .next t → HistoryAgrees t
end

