-- ==== Sys2Proof/Laws/Lists.lean ====
section
/-! SUPPORT. The lists of key and value that hold memories, registers and the program. -/

namespace Sys2Proof.Machine

variable {α : Type}

theorem lookupAt_insertAt_self (a : Nat) (x : α) (l : List (Nat × α)) : lookupAt (insertAt a x l) a = some x := by
  induction l with
  | nil => simp [insertAt, lookupAt]
  | cons e l ih =>
    obtain ⟨b, y⟩ := e
    simp only [insertAt]
    split
    · simp [lookupAt]
    · split
      · simp [lookupAt]
      · simp [lookupAt, *]

theorem lookupAt_insertAt_ne {a c : Nat} (h : c ≠ a) (x : α) (l : List (Nat × α)) :
    lookupAt (insertAt a x l) c = lookupAt l c := by
  induction l with
  | nil => simp [insertAt, lookupAt, h]
  | cons e l ih =>
    obtain ⟨b, y⟩ := e
    simp only [insertAt]
    split
    · simp [lookupAt, h]
    · split
      · next hab => subst hab; simp [lookupAt, h]
      · simp [lookupAt, ih]

/-- A key of the list with one more is that one or a key of the list. -/
theorem mem_insertAt {a : Nat} {x : α} {l : List (Nat × α)} {e : Nat × α} (h : e ∈ insertAt a x l) :
    e = (a, x) ∨ e ∈ l := by
  induction l with
  | nil => simpa [insertAt] using h
  | cons f l ih =>
    obtain ⟨b, y⟩ := f
    simp only [insertAt] at h
    split at h
    · simpa using h
    · split at h
      · rcases List.mem_cons.1 h with h | h
        · exact .inl h
        · exact .inr (List.mem_cons_of_mem _ h)
      · rcases List.mem_cons.1 h with h | h
        · exact .inr (by simp [h])
        · exact (ih h).imp_right (List.mem_cons_of_mem _)

theorem mem_of_mem_eraseAt {a : Nat} {l : List (Nat × α)} {e : Nat × α} (h : e ∈ eraseAt a l) : e ∈ l := by
  induction l with
  | nil => simp [eraseAt] at h
  | cons f l ih =>
    obtain ⟨b, y⟩ := f
    simp only [eraseAt] at h
    split at h
    · exact List.mem_cons_of_mem _ h
    · split at h
      · exact h
      · rcases List.mem_cons.1 h with h | h
        · simp [h]
        · exact List.mem_cons_of_mem _ (ih h)

theorem keysRise_iff (l : List (Nat × α)) : keysRise l = true ↔ l.Pairwise fun e f => e.1 < f.1 := by
  induction l with
  | nil => simp [keysRise]
  | cons e l ih =>
    cases l with
    | nil => simp [keysRise]
    | cons f l =>
      obtain ⟨a, x⟩ := e
      obtain ⟨b, y⟩ := f
      simp only [keysRise, Bool.and_eq_true, decide_eq_true_eq, ih, List.pairwise_cons, List.mem_cons,
        forall_eq_or_imp]
      constructor
      · rintro ⟨hab, hb, hl⟩
        exact ⟨⟨hab, fun e he => Nat.lt_trans hab (hb e he)⟩, hb, hl⟩
      · rintro ⟨⟨hab, -⟩, hb, hl⟩
        exact ⟨hab, hb, hl⟩

theorem keysRise_insertAt (a : Nat) (x : α) {l : List (Nat × α)} (h : keysRise l = true) :
    keysRise (insertAt a x l) = true := by
  rw [keysRise_iff] at *
  induction l with
  | nil => simp [insertAt]
  | cons e l ih =>
    obtain ⟨b, y⟩ := e
    rw [List.pairwise_cons] at h
    simp only [insertAt]
    split
    · next hab =>
      refine List.pairwise_cons.2 ⟨fun e he => ?_, List.pairwise_cons.2 h⟩
      rcases List.mem_cons.1 he with rfl | he
      · exact hab
      · exact Nat.lt_trans hab (h.1 e he)
    · split
      · next hab => subst hab; exact List.pairwise_cons.2 h
      · next hba hne =>
        refine List.pairwise_cons.2 ⟨fun e he => ?_, ih h.2⟩
        rcases mem_insertAt he with rfl | he
        · show b < a
          omega
        · exact h.1 e he

theorem keysRise_eraseAt (a : Nat) {l : List (Nat × α)} (h : keysRise l = true) : keysRise (eraseAt a l) = true := by
  rw [keysRise_iff] at *
  induction l with
  | nil => simp [eraseAt]
  | cons e l ih =>
    obtain ⟨b, y⟩ := e
    rw [List.pairwise_cons] at h
    simp only [eraseAt]
    split
    · exact h.2
    · split
      · exact List.pairwise_cons.2 h
      · exact List.pairwise_cons.2 ⟨fun e he => h.1 e (mem_of_mem_eraseAt he), ih h.2⟩

/-- No key of a rising list stands in what is left when that key is taken out. -/
theorem lookupAt_eraseAt_self (a : Nat) {l : List (Nat × α)} (h : keysRise l = true) :
    lookupAt (eraseAt a l) a = none := by
  rw [keysRise_iff] at h
  have absent : ∀ m : List (Nat × α), (∀ e ∈ m, a < e.1) → lookupAt m a = none := by
    intro m hm
    induction m with
    | nil => rfl
    | cons f m ihm =>
      obtain ⟨c, z⟩ := f
      have hc : a < c := hm (c, z) (by simp)
      simp only [lookupAt, if_neg (Nat.ne_of_lt hc)]
      exact ihm fun e he => hm e (List.mem_cons_of_mem _ he)
  induction l with
  | nil => rfl
  | cons e l ih =>
    obtain ⟨b, y⟩ := e
    rw [List.pairwise_cons] at h
    simp only [eraseAt]
    split
    · next hab => subst hab; exact absent l h.1
    · split
      · next hab =>
        refine absent _ fun e he => ?_
        rcases List.mem_cons.1 he with rfl | he
        · exact hab
        · exact Nat.lt_trans hab (h.1 e he)
      · next hne hab => simpa [lookupAt, hne] using ih h.2

theorem lookupAt_eraseAt_ne {a c : Nat} (h : c ≠ a) (l : List (Nat × α)) :
    lookupAt (eraseAt a l) c = lookupAt l c := by
  induction l with
  | nil => rfl
  | cons e l ih =>
    obtain ⟨b, y⟩ := e
    simp only [eraseAt]
    split
    · next hab => subst hab; simp [lookupAt, h]
    · split
      · rfl
      · simp [lookupAt, ih]

end Sys2Proof.Machine
end

