-- ==== Sys2Proof/Laws/Memory.lean ====
section
/-! SUPPORT. Data memory: its canonical form, and what a read gives after a write. -/

namespace Sys2Proof.Machine

theorem reset_mem_wf : Memory.wf State.reset.mem = true := rfl

theorem Memory.wf_write {m : List Host.Cell} (h : Memory.wf m = true) (a : Nat) (b : Byte) :
    Memory.wf (Memory.write m a b) = true := keysRise_insertAt a b h

theorem Memory.wf_writeSlot (e : Bool) {m : List Host.Cell} (h : Memory.wf m = true) (a : Nat) (w : Word) :
    Memory.wf (Memory.writeSlot e m a w) = true :=
  Memory.wf_write (Memory.wf_write (Memory.wf_write (Memory.wf_write h _ _) _ _) _ _) _ _

@[simp] theorem Memory.read_write_self (m : List Host.Cell) (a : Nat) (b : Byte) :
    Memory.read (Memory.write m a b) a = some b := by
  simp [Memory.read, Memory.write, lookupAt_insertAt_self]

theorem Memory.read_write_ne (m : List Host.Cell) {a c : Nat} (h : c ≠ a) (b : Byte) :
    Memory.read (Memory.write m a b) c = Memory.read m c := by
  simp [Memory.read, Memory.write, lookupAt_insertAt_ne h]

/-- A slot's four bytes, put together in the byte order they were taken apart in. -/
theorem slotOfBytes_slotByte (e : Bool) (w : Word) :
    slotOfBytes e (slotByte e w 0) (slotByte e w 1) (slotByte e w 2) (slotByte e w 3) = w := by
  have key : w.extractLsb' 24 8 ++ w.extractLsb' 16 8 ++ w.extractLsb' 8 8 ++ w.extractLsb' 0 8 = w := by
    ext i hi
    simp only [BitVec.getElem_append, BitVec.getElem_extractLsb']
    split
    · simp [BitVec.getLsbD_eq_getElem hi]
    · split
      · rw [BitVec.getLsbD_eq_getElem (by omega)]; congr 1; omega
      · split
        · rw [BitVec.getLsbD_eq_getElem (by omega)]; congr 1; omega
        · rw [BitVec.getLsbD_eq_getElem (by omega)]; congr 1; omega
  cases e <;> simpa [slotOfBytes, slotByte] using key

/-- A slot just written reads as what was written, in either byte order. -/
theorem Memory.readSlot_writeSlot_self (e : Bool) (m : List Host.Cell) (a : Nat) (w : Word) :
    Memory.readSlot e (Memory.writeSlot e m a w) a = some w := by
  have h0 : Memory.read (Memory.writeSlot e m a w) a = some (slotByte e w 0) := by
    simp [Memory.writeSlot, Memory.read_write_ne]
  have h1 : Memory.read (Memory.writeSlot e m a w) (a + 1) = some (slotByte e w 1) := by
    simp [Memory.writeSlot, Memory.read_write_ne]
  have h2 : Memory.read (Memory.writeSlot e m a w) (a + 2) = some (slotByte e w 2) := by
    simp [Memory.writeSlot, Memory.read_write_ne]
  have h3 : Memory.read (Memory.writeSlot e m a w) (a + 3) = some (slotByte e w 3) := by
    simp [Memory.writeSlot]
  simp [Memory.readSlot, h0, h1, h2, h3, slotOfBytes_slotByte]

/-- A byte outside the slot written reads as before. -/
theorem Memory.read_writeSlot_outside (e : Bool) (m : List Host.Cell) {a c : Nat} (h : c < a ∨ a + 4 ≤ c) (w : Word) :
    Memory.read (Memory.writeSlot e m a w) c = Memory.read m c := by
  simp only [Memory.writeSlot]
  rw [Memory.read_write_ne _ (by omega), Memory.read_write_ne _ (by omega), Memory.read_write_ne _ (by omega),
    Memory.read_write_ne _ (by omega)]

/-- Another aligned slot reads as before. -/
theorem Memory.readSlot_writeSlot_other (e : Bool) (m : List Host.Cell) {a c : Nat} (ha : a % 4 = 0) (hc : c % 4 = 0)
    (h : c ≠ a) (w : Word) : Memory.readSlot e (Memory.writeSlot e m a w) c = Memory.readSlot e m c := by
  simp only [Memory.readSlot]
  rw [Memory.read_writeSlot_outside _ _ (by omega), Memory.read_writeSlot_outside _ _ (by omega),
    Memory.read_writeSlot_outside _ _ (by omega), Memory.read_writeSlot_outside _ _ (by omega)]

/-- Every cell after a byte write is the byte written or was there before. -/
theorem Memory.mem_write {m : List Host.Cell} {a : Nat} {b : Byte} {c : Host.Cell} (h : c ∈ Memory.write m a b) :
    c.1 = a ∨ c ∈ m := (mem_insertAt h).imp_left fun e => by rw [e]

/-- Every cell after a slot write lies in the slot or was there before. -/
theorem Memory.mem_writeSlot {e : Bool} {m : List Host.Cell} {a : Nat} {w : Word} {c : Host.Cell}
    (h : c ∈ Memory.writeSlot e m a w) : (a ≤ c.1 ∧ c.1 < a + 4) ∨ c ∈ m := by
  rcases Memory.mem_write h with h | h
  · exact .inl (by omega)
  rcases Memory.mem_write h with h | h
  · exact .inl (by omega)
  rcases Memory.mem_write h with h | h
  · exact .inl (by omega)
  rcases Memory.mem_write h with h | h
  · exact .inl (by omega)
  · exact .inr h

/-- The general registers keep their canonical form. -/
theorem Registers.wf_setReg (s : State) (r : Nat) (x : Word) (h : Registers.wf s.regs = true) :
    Registers.wf (s.setReg r x).regs = true := by
  simp only [Registers.wf, Bool.and_eq_true, List.all_eq_true, decide_eq_true_eq] at *
  simp only [State.setReg]
  split
  · exact ⟨keysRise_eraseAt r h.1, fun e he => h.2 e (mem_of_mem_eraseAt he)⟩
  · next hx =>
    refine ⟨keysRise_insertAt r x h.1, fun e he => ?_⟩
    rcases mem_insertAt he with rfl | he
    · exact hx
    · exact h.2 e he

/-- A general register just written reads as what was written. -/
theorem State.reg_setReg_self (s : State) (r : Nat) (x : Word) (h : Registers.wf s.regs = true) :
    (s.setReg r x).reg r = x := by
  simp only [Registers.wf, Bool.and_eq_true] at h
  simp only [State.reg, State.setReg]
  split
  · next hx => simp [lookupAt_eraseAt_self r h.1, hx]
  · simp [lookupAt_insertAt_self]

/-- The other general registers read as before. -/
theorem State.reg_setReg_ne (s : State) {r q : Nat} (h : q ≠ r) (x : Word) : (s.setReg r x).reg q = s.reg q := by
  simp only [State.reg, State.setReg]
  split
  · rw [lookupAt_eraseAt_ne h]
  · rw [lookupAt_insertAt_ne h]

end Sys2Proof.Machine
end

