-- ==== Sys2Proof/Laws/State.lean ====
section
/-! SUPPORT. What each update of State does to each field. -/

namespace Sys2Proof.Machine

/-! ## advance -/

@[simp] theorem State.advance_par (s : State) : (State.advance s).par = s.par := rfl
@[simp] theorem State.advance_pc (s : State) : (State.advance s).pc = s.npc := rfl
@[simp] theorem State.advance_npc (s : State) : (State.advance s).npc = s.npc := rfl
@[simp] theorem State.advance_returned (s : State) : (State.advance s).returned = s.returned := rfl
@[simp] theorem State.advance_ilr (s : State) : (State.advance s).ilr = s.ilr := rfl
@[simp] theorem State.advance_sr (s : State) : (State.advance s).sr = s.sr := rfl
@[simp] theorem State.advance_imsk (s : State) : (State.advance s).imsk = s.imsk := rfl
@[simp] theorem State.advance_sp (s : State) : (State.advance s).sp = s.sp := rfl
@[simp] theorem State.advance_lcp (s : State) : (State.advance s).lcp = s.lcp := rfl
@[simp] theorem State.advance_loops (s : State) : (State.advance s).loops = s.loops := rfl
@[simp] theorem State.advance_regs (s : State) : (State.advance s).regs = s.regs := rfl
@[simp] theorem State.advance_mem (s : State) : (State.advance s).mem = s.mem := rfl
@[simp] theorem State.advance_pm (s : State) : (State.advance s).pm = s.pm := rfl
@[simp] theorem State.advance_irqInp (s : State) : (State.advance s).irqInp = s.irqInp := rfl
@[simp] theorem State.advance_resume (s : State) : (State.advance s).resume = s.resume := rfl
@[simp] theorem State.advance_iackOut (s : State) : (State.advance s).iackOut = s.iackOut := rfl
@[simp] theorem State.advance_run (s : State) : (State.advance s).run = s.run := rfl
@[simp] theorem State.advance_iePrev (s : State) : (State.advance s).iePrev = s.iePrev := rfl
@[simp] theorem State.advance_imskPrev (s : State) : (State.advance s).imskPrev = s.imskPrev := rfl
@[simp] theorem State.advance_history (s : State) : (State.advance s).history = s.history := rfl
@[simp] theorem State.advance_agenda (s : State) : (State.advance s).agenda = s.agenda := rfl
@[simp] theorem State.advance_draws (s : State) : (State.advance s).draws = s.draws := rfl

/-! ## draw -/

@[simp] theorem State.draw_par (s : State) : ((State.draw s).2).par = s.par := rfl
@[simp] theorem State.draw_pc (s : State) : ((State.draw s).2).pc = s.pc := rfl
@[simp] theorem State.draw_npc (s : State) : ((State.draw s).2).npc = s.npc := rfl
@[simp] theorem State.draw_returned (s : State) : ((State.draw s).2).returned = s.returned := rfl
@[simp] theorem State.draw_ilr (s : State) : ((State.draw s).2).ilr = s.ilr := rfl
@[simp] theorem State.draw_sr (s : State) : ((State.draw s).2).sr = s.sr := rfl
@[simp] theorem State.draw_imsk (s : State) : ((State.draw s).2).imsk = s.imsk := rfl
@[simp] theorem State.draw_sp (s : State) : ((State.draw s).2).sp = s.sp := rfl
@[simp] theorem State.draw_lcp (s : State) : ((State.draw s).2).lcp = s.lcp := rfl
@[simp] theorem State.draw_loops (s : State) : ((State.draw s).2).loops = s.loops := rfl
@[simp] theorem State.draw_regs (s : State) : ((State.draw s).2).regs = s.regs := rfl
@[simp] theorem State.draw_mem (s : State) : ((State.draw s).2).mem = s.mem := rfl
@[simp] theorem State.draw_pm (s : State) : ((State.draw s).2).pm = s.pm := rfl
@[simp] theorem State.draw_irqInp (s : State) : ((State.draw s).2).irqInp = s.irqInp := rfl
@[simp] theorem State.draw_resume (s : State) : ((State.draw s).2).resume = s.resume := rfl
@[simp] theorem State.draw_iackOut (s : State) : ((State.draw s).2).iackOut = s.iackOut := rfl
@[simp] theorem State.draw_run (s : State) : ((State.draw s).2).run = s.run := rfl
@[simp] theorem State.draw_iePrev (s : State) : ((State.draw s).2).iePrev = s.iePrev := rfl
@[simp] theorem State.draw_imskPrev (s : State) : ((State.draw s).2).imskPrev = s.imskPrev := rfl
@[simp] theorem State.draw_history (s : State) : ((State.draw s).2).history = s.history := rfl
@[simp] theorem State.draw_agenda (s : State) : ((State.draw s).2).agenda = s.agenda := rfl
@[simp] theorem State.draw_draws (s : State) : ((State.draw s).2).draws = s.draws + 1 := rfl

/-! ## putSlot -/

@[simp] theorem State.putSlot_par (s : State) (a : Nat) (w : Word) : (State.putSlot s a w).par = s.par := rfl
@[simp] theorem State.putSlot_pc (s : State) (a : Nat) (w : Word) : (State.putSlot s a w).pc = s.pc := rfl
@[simp] theorem State.putSlot_npc (s : State) (a : Nat) (w : Word) : (State.putSlot s a w).npc = s.npc := rfl
@[simp] theorem State.putSlot_returned (s : State) (a : Nat) (w : Word) : (State.putSlot s a w).returned = s.returned := rfl
@[simp] theorem State.putSlot_ilr (s : State) (a : Nat) (w : Word) : (State.putSlot s a w).ilr = s.ilr := rfl
@[simp] theorem State.putSlot_sr (s : State) (a : Nat) (w : Word) : (State.putSlot s a w).sr = s.sr := rfl
@[simp] theorem State.putSlot_imsk (s : State) (a : Nat) (w : Word) : (State.putSlot s a w).imsk = s.imsk := rfl
@[simp] theorem State.putSlot_sp (s : State) (a : Nat) (w : Word) : (State.putSlot s a w).sp = s.sp := rfl
@[simp] theorem State.putSlot_lcp (s : State) (a : Nat) (w : Word) : (State.putSlot s a w).lcp = s.lcp := rfl
@[simp] theorem State.putSlot_loops (s : State) (a : Nat) (w : Word) : (State.putSlot s a w).loops = s.loops := rfl
@[simp] theorem State.putSlot_regs (s : State) (a : Nat) (w : Word) : (State.putSlot s a w).regs = s.regs := rfl
@[simp] theorem State.putSlot_mem (s : State) (a : Nat) (w : Word) : (State.putSlot s a w).mem = Memory.writeSlot s.par.bigEndian s.mem a w := rfl
@[simp] theorem State.putSlot_pm (s : State) (a : Nat) (w : Word) : (State.putSlot s a w).pm = s.pm := rfl
@[simp] theorem State.putSlot_irqInp (s : State) (a : Nat) (w : Word) : (State.putSlot s a w).irqInp = s.irqInp := rfl
@[simp] theorem State.putSlot_resume (s : State) (a : Nat) (w : Word) : (State.putSlot s a w).resume = s.resume := rfl
@[simp] theorem State.putSlot_iackOut (s : State) (a : Nat) (w : Word) : (State.putSlot s a w).iackOut = s.iackOut := rfl
@[simp] theorem State.putSlot_run (s : State) (a : Nat) (w : Word) : (State.putSlot s a w).run = s.run := rfl
@[simp] theorem State.putSlot_iePrev (s : State) (a : Nat) (w : Word) : (State.putSlot s a w).iePrev = s.iePrev := rfl
@[simp] theorem State.putSlot_imskPrev (s : State) (a : Nat) (w : Word) : (State.putSlot s a w).imskPrev = s.imskPrev := rfl
@[simp] theorem State.putSlot_history (s : State) (a : Nat) (w : Word) : (State.putSlot s a w).history = .memWrite a w :: s.history := rfl
@[simp] theorem State.putSlot_agenda (s : State) (a : Nat) (w : Word) : (State.putSlot s a w).agenda = s.agenda := rfl
@[simp] theorem State.putSlot_draws (s : State) (a : Nat) (w : Word) : (State.putSlot s a w).draws = s.draws := rfl

/-! ## setReg -/

@[simp] theorem State.setReg_par (s : State) (r : Nat) (x : Word) : (State.setReg s r x).par = s.par := rfl
@[simp] theorem State.setReg_pc (s : State) (r : Nat) (x : Word) : (State.setReg s r x).pc = s.pc := rfl
@[simp] theorem State.setReg_npc (s : State) (r : Nat) (x : Word) : (State.setReg s r x).npc = s.npc := rfl
@[simp] theorem State.setReg_returned (s : State) (r : Nat) (x : Word) : (State.setReg s r x).returned = s.returned := rfl
@[simp] theorem State.setReg_ilr (s : State) (r : Nat) (x : Word) : (State.setReg s r x).ilr = s.ilr := rfl
@[simp] theorem State.setReg_sr (s : State) (r : Nat) (x : Word) : (State.setReg s r x).sr = s.sr := rfl
@[simp] theorem State.setReg_imsk (s : State) (r : Nat) (x : Word) : (State.setReg s r x).imsk = s.imsk := rfl
@[simp] theorem State.setReg_sp (s : State) (r : Nat) (x : Word) : (State.setReg s r x).sp = s.sp := rfl
@[simp] theorem State.setReg_lcp (s : State) (r : Nat) (x : Word) : (State.setReg s r x).lcp = s.lcp := rfl
@[simp] theorem State.setReg_loops (s : State) (r : Nat) (x : Word) : (State.setReg s r x).loops = s.loops := rfl
@[simp] theorem State.setReg_regs (s : State) (r : Nat) (x : Word) : (State.setReg s r x).regs = if x = 0 then eraseAt r s.regs else insertAt r x s.regs := rfl
@[simp] theorem State.setReg_mem (s : State) (r : Nat) (x : Word) : (State.setReg s r x).mem = s.mem := rfl
@[simp] theorem State.setReg_pm (s : State) (r : Nat) (x : Word) : (State.setReg s r x).pm = s.pm := rfl
@[simp] theorem State.setReg_irqInp (s : State) (r : Nat) (x : Word) : (State.setReg s r x).irqInp = s.irqInp := rfl
@[simp] theorem State.setReg_resume (s : State) (r : Nat) (x : Word) : (State.setReg s r x).resume = s.resume := rfl
@[simp] theorem State.setReg_iackOut (s : State) (r : Nat) (x : Word) : (State.setReg s r x).iackOut = s.iackOut := rfl
@[simp] theorem State.setReg_run (s : State) (r : Nat) (x : Word) : (State.setReg s r x).run = s.run := rfl
@[simp] theorem State.setReg_iePrev (s : State) (r : Nat) (x : Word) : (State.setReg s r x).iePrev = s.iePrev := rfl
@[simp] theorem State.setReg_imskPrev (s : State) (r : Nat) (x : Word) : (State.setReg s r x).imskPrev = s.imskPrev := rfl
@[simp] theorem State.setReg_history (s : State) (r : Nat) (x : Word) : (State.setReg s r x).history = s.history := rfl
@[simp] theorem State.setReg_agenda (s : State) (r : Nat) (x : Word) : (State.setReg s r x).agenda = s.agenda := rfl
@[simp] theorem State.setReg_draws (s : State) (r : Nat) (x : Word) : (State.setReg s r x).draws = s.draws := rfl

/-! ## setIe -/

@[simp] theorem State.setIe_par (s : State) (u : Bool) : (State.setIe s u).par = s.par := rfl
@[simp] theorem State.setIe_pc (s : State) (u : Bool) : (State.setIe s u).pc = s.pc := rfl
@[simp] theorem State.setIe_npc (s : State) (u : Bool) : (State.setIe s u).npc = s.npc := rfl
@[simp] theorem State.setIe_returned (s : State) (u : Bool) : (State.setIe s u).returned = s.returned := rfl
@[simp] theorem State.setIe_ilr (s : State) (u : Bool) : (State.setIe s u).ilr = s.ilr := rfl
@[simp] theorem State.setIe_sr (s : State) (u : Bool) : (State.setIe s u).sr = { s.sr with ie := u } := rfl
@[simp] theorem State.setIe_imsk (s : State) (u : Bool) : (State.setIe s u).imsk = s.imsk := rfl
@[simp] theorem State.setIe_sp (s : State) (u : Bool) : (State.setIe s u).sp = s.sp := rfl
@[simp] theorem State.setIe_lcp (s : State) (u : Bool) : (State.setIe s u).lcp = s.lcp := rfl
@[simp] theorem State.setIe_loops (s : State) (u : Bool) : (State.setIe s u).loops = s.loops := rfl
@[simp] theorem State.setIe_regs (s : State) (u : Bool) : (State.setIe s u).regs = s.regs := rfl
@[simp] theorem State.setIe_mem (s : State) (u : Bool) : (State.setIe s u).mem = s.mem := rfl
@[simp] theorem State.setIe_pm (s : State) (u : Bool) : (State.setIe s u).pm = s.pm := rfl
@[simp] theorem State.setIe_irqInp (s : State) (u : Bool) : (State.setIe s u).irqInp = s.irqInp := rfl
@[simp] theorem State.setIe_resume (s : State) (u : Bool) : (State.setIe s u).resume = s.resume := rfl
@[simp] theorem State.setIe_iackOut (s : State) (u : Bool) : (State.setIe s u).iackOut = s.iackOut := rfl
@[simp] theorem State.setIe_run (s : State) (u : Bool) : (State.setIe s u).run = s.run := rfl
@[simp] theorem State.setIe_iePrev (s : State) (u : Bool) : (State.setIe s u).iePrev = s.iePrev := rfl
@[simp] theorem State.setIe_imskPrev (s : State) (u : Bool) : (State.setIe s u).imskPrev = s.imskPrev := rfl
@[simp] theorem State.setIe_history (s : State) (u : Bool) : (State.setIe s u).history = s.history := rfl
@[simp] theorem State.setIe_agenda (s : State) (u : Bool) : (State.setIe s u).agenda = s.agenda := rfl
@[simp] theorem State.setIe_draws (s : State) (u : Bool) : (State.setIe s u).draws = s.draws := rfl

/-! ## setImsk -/

@[simp] theorem State.setImsk_par (s : State) (m : IrqLines) : (State.setImsk s m).par = s.par := rfl
@[simp] theorem State.setImsk_pc (s : State) (m : IrqLines) : (State.setImsk s m).pc = s.pc := rfl
@[simp] theorem State.setImsk_npc (s : State) (m : IrqLines) : (State.setImsk s m).npc = s.npc := rfl
@[simp] theorem State.setImsk_returned (s : State) (m : IrqLines) : (State.setImsk s m).returned = s.returned := rfl
@[simp] theorem State.setImsk_ilr (s : State) (m : IrqLines) : (State.setImsk s m).ilr = s.ilr := rfl
@[simp] theorem State.setImsk_sr (s : State) (m : IrqLines) : (State.setImsk s m).sr = s.sr := rfl
@[simp] theorem State.setImsk_imsk (s : State) (m : IrqLines) : (State.setImsk s m).imsk = m := rfl
@[simp] theorem State.setImsk_sp (s : State) (m : IrqLines) : (State.setImsk s m).sp = s.sp := rfl
@[simp] theorem State.setImsk_lcp (s : State) (m : IrqLines) : (State.setImsk s m).lcp = s.lcp := rfl
@[simp] theorem State.setImsk_loops (s : State) (m : IrqLines) : (State.setImsk s m).loops = s.loops := rfl
@[simp] theorem State.setImsk_regs (s : State) (m : IrqLines) : (State.setImsk s m).regs = s.regs := rfl
@[simp] theorem State.setImsk_mem (s : State) (m : IrqLines) : (State.setImsk s m).mem = s.mem := rfl
@[simp] theorem State.setImsk_pm (s : State) (m : IrqLines) : (State.setImsk s m).pm = s.pm := rfl
@[simp] theorem State.setImsk_irqInp (s : State) (m : IrqLines) : (State.setImsk s m).irqInp = s.irqInp := rfl
@[simp] theorem State.setImsk_resume (s : State) (m : IrqLines) : (State.setImsk s m).resume = s.resume := rfl
@[simp] theorem State.setImsk_iackOut (s : State) (m : IrqLines) : (State.setImsk s m).iackOut = s.iackOut := rfl
@[simp] theorem State.setImsk_run (s : State) (m : IrqLines) : (State.setImsk s m).run = s.run := rfl
@[simp] theorem State.setImsk_iePrev (s : State) (m : IrqLines) : (State.setImsk s m).iePrev = s.iePrev := rfl
@[simp] theorem State.setImsk_imskPrev (s : State) (m : IrqLines) : (State.setImsk s m).imskPrev = s.imskPrev := rfl
@[simp] theorem State.setImsk_history (s : State) (m : IrqLines) : (State.setImsk s m).history = s.history := rfl
@[simp] theorem State.setImsk_agenda (s : State) (m : IrqLines) : (State.setImsk s m).agenda = s.agenda := rfl
@[simp] theorem State.setImsk_draws (s : State) (m : IrqLines) : (State.setImsk s m).draws = s.draws := rfl

/-! ## setLoopSet -/

@[simp] theorem State.setLoopSet_par (s : State) (i : Fin 4) (x : LoopSet) : (State.setLoopSet s i x).par = s.par := rfl
@[simp] theorem State.setLoopSet_pc (s : State) (i : Fin 4) (x : LoopSet) : (State.setLoopSet s i x).pc = s.pc := rfl
@[simp] theorem State.setLoopSet_npc (s : State) (i : Fin 4) (x : LoopSet) : (State.setLoopSet s i x).npc = s.npc := rfl
@[simp] theorem State.setLoopSet_returned (s : State) (i : Fin 4) (x : LoopSet) : (State.setLoopSet s i x).returned = s.returned := rfl
@[simp] theorem State.setLoopSet_ilr (s : State) (i : Fin 4) (x : LoopSet) : (State.setLoopSet s i x).ilr = s.ilr := rfl
@[simp] theorem State.setLoopSet_sr (s : State) (i : Fin 4) (x : LoopSet) : (State.setLoopSet s i x).sr = s.sr := rfl
@[simp] theorem State.setLoopSet_imsk (s : State) (i : Fin 4) (x : LoopSet) : (State.setLoopSet s i x).imsk = s.imsk := rfl
@[simp] theorem State.setLoopSet_sp (s : State) (i : Fin 4) (x : LoopSet) : (State.setLoopSet s i x).sp = s.sp := rfl
@[simp] theorem State.setLoopSet_lcp (s : State) (i : Fin 4) (x : LoopSet) : (State.setLoopSet s i x).lcp = s.lcp := rfl
@[simp] theorem State.setLoopSet_loops (s : State) (i : Fin 4) (x : LoopSet) : (State.setLoopSet s i x).loops = s.loops.set i x := rfl
@[simp] theorem State.setLoopSet_regs (s : State) (i : Fin 4) (x : LoopSet) : (State.setLoopSet s i x).regs = s.regs := rfl
@[simp] theorem State.setLoopSet_mem (s : State) (i : Fin 4) (x : LoopSet) : (State.setLoopSet s i x).mem = s.mem := rfl
@[simp] theorem State.setLoopSet_pm (s : State) (i : Fin 4) (x : LoopSet) : (State.setLoopSet s i x).pm = s.pm := rfl
@[simp] theorem State.setLoopSet_irqInp (s : State) (i : Fin 4) (x : LoopSet) : (State.setLoopSet s i x).irqInp = s.irqInp := rfl
@[simp] theorem State.setLoopSet_resume (s : State) (i : Fin 4) (x : LoopSet) : (State.setLoopSet s i x).resume = s.resume := rfl
@[simp] theorem State.setLoopSet_iackOut (s : State) (i : Fin 4) (x : LoopSet) : (State.setLoopSet s i x).iackOut = s.iackOut := rfl
@[simp] theorem State.setLoopSet_run (s : State) (i : Fin 4) (x : LoopSet) : (State.setLoopSet s i x).run = s.run := rfl
@[simp] theorem State.setLoopSet_iePrev (s : State) (i : Fin 4) (x : LoopSet) : (State.setLoopSet s i x).iePrev = s.iePrev := rfl
@[simp] theorem State.setLoopSet_imskPrev (s : State) (i : Fin 4) (x : LoopSet) : (State.setLoopSet s i x).imskPrev = s.imskPrev := rfl
@[simp] theorem State.setLoopSet_history (s : State) (i : Fin 4) (x : LoopSet) : (State.setLoopSet s i x).history = s.history := rfl
@[simp] theorem State.setLoopSet_agenda (s : State) (i : Fin 4) (x : LoopSet) : (State.setLoopSet s i x).agenda = s.agenda := rfl
@[simp] theorem State.setLoopSet_draws (s : State) (i : Fin 4) (x : LoopSet) : (State.setLoopSet s i x).draws = s.draws := rfl

/-! ## takeInterrupt -/

@[simp] theorem State.takeInterrupt_par (s : State) (ret vector : Nat) : (State.takeInterrupt s ret vector).par = s.par := rfl
@[simp] theorem State.takeInterrupt_pc (s : State) (ret vector : Nat) : (State.takeInterrupt s ret vector).pc = vector := rfl
@[simp] theorem State.takeInterrupt_npc (s : State) (ret vector : Nat) : (State.takeInterrupt s ret vector).npc = s.npc := rfl
@[simp] theorem State.takeInterrupt_returned (s : State) (ret vector : Nat) : (State.takeInterrupt s ret vector).returned = false := rfl
@[simp] theorem State.takeInterrupt_ilr (s : State) (ret vector : Nat) : (State.takeInterrupt s ret vector).ilr = ret := rfl
@[simp] theorem State.takeInterrupt_sr (s : State) (ret vector : Nat) : (State.takeInterrupt s ret vector).sr = s.sr.enter := rfl
@[simp] theorem State.takeInterrupt_imsk (s : State) (ret vector : Nat) : (State.takeInterrupt s ret vector).imsk = s.imsk := rfl
@[simp] theorem State.takeInterrupt_sp (s : State) (ret vector : Nat) : (State.takeInterrupt s ret vector).sp = s.sp := rfl
@[simp] theorem State.takeInterrupt_lcp (s : State) (ret vector : Nat) : (State.takeInterrupt s ret vector).lcp = s.lcp := rfl
@[simp] theorem State.takeInterrupt_loops (s : State) (ret vector : Nat) : (State.takeInterrupt s ret vector).loops = s.loops := rfl
@[simp] theorem State.takeInterrupt_regs (s : State) (ret vector : Nat) : (State.takeInterrupt s ret vector).regs = s.regs := rfl
@[simp] theorem State.takeInterrupt_mem (s : State) (ret vector : Nat) : (State.takeInterrupt s ret vector).mem = s.mem := rfl
@[simp] theorem State.takeInterrupt_pm (s : State) (ret vector : Nat) : (State.takeInterrupt s ret vector).pm = s.pm := rfl
@[simp] theorem State.takeInterrupt_irqInp (s : State) (ret vector : Nat) : (State.takeInterrupt s ret vector).irqInp = s.irqInp := rfl
@[simp] theorem State.takeInterrupt_resume (s : State) (ret vector : Nat) : (State.takeInterrupt s ret vector).resume = s.resume := rfl
@[simp] theorem State.takeInterrupt_iackOut (s : State) (ret vector : Nat) : (State.takeInterrupt s ret vector).iackOut = s.iackOut := rfl
@[simp] theorem State.takeInterrupt_run (s : State) (ret vector : Nat) : (State.takeInterrupt s ret vector).run = s.run := rfl
@[simp] theorem State.takeInterrupt_iePrev (s : State) (ret vector : Nat) : (State.takeInterrupt s ret vector).iePrev = false := rfl
@[simp] theorem State.takeInterrupt_imskPrev (s : State) (ret vector : Nat) : (State.takeInterrupt s ret vector).imskPrev = s.imsk := rfl
@[simp] theorem State.takeInterrupt_history (s : State) (ret vector : Nat) : (State.takeInterrupt s ret vector).history = s.history := rfl
@[simp] theorem State.takeInterrupt_agenda (s : State) (ret vector : Nat) : (State.takeInterrupt s ret vector).agenda = s.agenda := rfl
@[simp] theorem State.takeInterrupt_draws (s : State) (ret vector : Nat) : (State.takeInterrupt s ret vector).draws = s.draws := rfl

/-! ## returnFromInterrupt -/

@[simp] theorem State.returnFromInterrupt_par (s : State) : (State.returnFromInterrupt s).par = s.par := rfl
@[simp] theorem State.returnFromInterrupt_pc (s : State) : (State.returnFromInterrupt s).pc = s.ilr := rfl
@[simp] theorem State.returnFromInterrupt_npc (s : State) : (State.returnFromInterrupt s).npc = s.npc := rfl
@[simp] theorem State.returnFromInterrupt_returned (s : State) : (State.returnFromInterrupt s).returned = true := rfl
@[simp] theorem State.returnFromInterrupt_ilr (s : State) : (State.returnFromInterrupt s).ilr = s.ilr := rfl
@[simp] theorem State.returnFromInterrupt_sr (s : State) : (State.returnFromInterrupt s).sr = s.sr.restore := rfl
@[simp] theorem State.returnFromInterrupt_imsk (s : State) : (State.returnFromInterrupt s).imsk = s.imsk := rfl
@[simp] theorem State.returnFromInterrupt_sp (s : State) : (State.returnFromInterrupt s).sp = s.sp := rfl
@[simp] theorem State.returnFromInterrupt_lcp (s : State) : (State.returnFromInterrupt s).lcp = s.lcp := rfl
@[simp] theorem State.returnFromInterrupt_loops (s : State) : (State.returnFromInterrupt s).loops = s.loops := rfl
@[simp] theorem State.returnFromInterrupt_regs (s : State) : (State.returnFromInterrupt s).regs = s.regs := rfl
@[simp] theorem State.returnFromInterrupt_mem (s : State) : (State.returnFromInterrupt s).mem = s.mem := rfl
@[simp] theorem State.returnFromInterrupt_pm (s : State) : (State.returnFromInterrupt s).pm = s.pm := rfl
@[simp] theorem State.returnFromInterrupt_irqInp (s : State) : (State.returnFromInterrupt s).irqInp = s.irqInp := rfl
@[simp] theorem State.returnFromInterrupt_resume (s : State) : (State.returnFromInterrupt s).resume = s.resume := rfl
@[simp] theorem State.returnFromInterrupt_iackOut (s : State) : (State.returnFromInterrupt s).iackOut = s.iackOut := rfl
@[simp] theorem State.returnFromInterrupt_run (s : State) : (State.returnFromInterrupt s).run = s.run := rfl
@[simp] theorem State.returnFromInterrupt_iePrev (s : State) : (State.returnFromInterrupt s).iePrev = s.iePrev := rfl
@[simp] theorem State.returnFromInterrupt_imskPrev (s : State) : (State.returnFromInterrupt s).imskPrev = s.imskPrev := rfl
@[simp] theorem State.returnFromInterrupt_history (s : State) : (State.returnFromInterrupt s).history = s.history := rfl
@[simp] theorem State.returnFromInterrupt_agenda (s : State) : (State.returnFromInterrupt s).agenda = s.agenda := rfl
@[simp] theorem State.returnFromInterrupt_draws (s : State) : (State.returnFromInterrupt s).draws = s.draws := rfl

/-! ## pulseIack -/

@[simp] theorem State.pulseIack_par (s : State) (k : Fin 15) : (State.pulseIack s k).par = s.par := rfl
@[simp] theorem State.pulseIack_pc (s : State) (k : Fin 15) : (State.pulseIack s k).pc = s.pc := rfl
@[simp] theorem State.pulseIack_npc (s : State) (k : Fin 15) : (State.pulseIack s k).npc = s.npc := rfl
@[simp] theorem State.pulseIack_returned (s : State) (k : Fin 15) : (State.pulseIack s k).returned = s.returned := rfl
@[simp] theorem State.pulseIack_ilr (s : State) (k : Fin 15) : (State.pulseIack s k).ilr = s.ilr := rfl
@[simp] theorem State.pulseIack_sr (s : State) (k : Fin 15) : (State.pulseIack s k).sr = s.sr := rfl
@[simp] theorem State.pulseIack_imsk (s : State) (k : Fin 15) : (State.pulseIack s k).imsk = s.imsk := rfl
@[simp] theorem State.pulseIack_sp (s : State) (k : Fin 15) : (State.pulseIack s k).sp = s.sp := rfl
@[simp] theorem State.pulseIack_lcp (s : State) (k : Fin 15) : (State.pulseIack s k).lcp = s.lcp := rfl
@[simp] theorem State.pulseIack_loops (s : State) (k : Fin 15) : (State.pulseIack s k).loops = s.loops := rfl
@[simp] theorem State.pulseIack_regs (s : State) (k : Fin 15) : (State.pulseIack s k).regs = s.regs := rfl
@[simp] theorem State.pulseIack_mem (s : State) (k : Fin 15) : (State.pulseIack s k).mem = s.mem := rfl
@[simp] theorem State.pulseIack_pm (s : State) (k : Fin 15) : (State.pulseIack s k).pm = s.pm := rfl
@[simp] theorem State.pulseIack_irqInp (s : State) (k : Fin 15) : (State.pulseIack s k).irqInp = s.irqInp := rfl
@[simp] theorem State.pulseIack_resume (s : State) (k : Fin 15) : (State.pulseIack s k).resume = s.resume := rfl
@[simp] theorem State.pulseIack_iackOut (s : State) (k : Fin 15) : (State.pulseIack s k).iackOut = s.iackOut ||| BitVec.ofNat 15 (2 ^ k.val) := rfl
@[simp] theorem State.pulseIack_run (s : State) (k : Fin 15) : (State.pulseIack s k).run = s.run := rfl
@[simp] theorem State.pulseIack_iePrev (s : State) (k : Fin 15) : (State.pulseIack s k).iePrev = s.iePrev := rfl
@[simp] theorem State.pulseIack_imskPrev (s : State) (k : Fin 15) : (State.pulseIack s k).imskPrev = s.imskPrev := rfl
@[simp] theorem State.pulseIack_history (s : State) (k : Fin 15) : (State.pulseIack s k).history = .iack k :: s.history := rfl
@[simp] theorem State.pulseIack_agenda (s : State) (k : Fin 15) : (State.pulseIack s k).agenda = s.agenda := rfl
@[simp] theorem State.pulseIack_draws (s : State) (k : Fin 15) : (State.pulseIack s k).draws = s.draws := rfl

/-! ## pulseAcks -/

@[simp] theorem State.pulseAcks_par (s : State) (m : IrqLines) : (State.pulseAcks s m).par = s.par := rfl
@[simp] theorem State.pulseAcks_pc (s : State) (m : IrqLines) : (State.pulseAcks s m).pc = s.pc := rfl
@[simp] theorem State.pulseAcks_npc (s : State) (m : IrqLines) : (State.pulseAcks s m).npc = s.npc := rfl
@[simp] theorem State.pulseAcks_returned (s : State) (m : IrqLines) : (State.pulseAcks s m).returned = s.returned := rfl
@[simp] theorem State.pulseAcks_ilr (s : State) (m : IrqLines) : (State.pulseAcks s m).ilr = s.ilr := rfl
@[simp] theorem State.pulseAcks_sr (s : State) (m : IrqLines) : (State.pulseAcks s m).sr = s.sr := rfl
@[simp] theorem State.pulseAcks_imsk (s : State) (m : IrqLines) : (State.pulseAcks s m).imsk = s.imsk := rfl
@[simp] theorem State.pulseAcks_sp (s : State) (m : IrqLines) : (State.pulseAcks s m).sp = s.sp := rfl
@[simp] theorem State.pulseAcks_lcp (s : State) (m : IrqLines) : (State.pulseAcks s m).lcp = s.lcp := rfl
@[simp] theorem State.pulseAcks_loops (s : State) (m : IrqLines) : (State.pulseAcks s m).loops = s.loops := rfl
@[simp] theorem State.pulseAcks_regs (s : State) (m : IrqLines) : (State.pulseAcks s m).regs = s.regs := rfl
@[simp] theorem State.pulseAcks_mem (s : State) (m : IrqLines) : (State.pulseAcks s m).mem = s.mem := rfl
@[simp] theorem State.pulseAcks_pm (s : State) (m : IrqLines) : (State.pulseAcks s m).pm = s.pm := rfl
@[simp] theorem State.pulseAcks_irqInp (s : State) (m : IrqLines) : (State.pulseAcks s m).irqInp = s.irqInp := rfl
@[simp] theorem State.pulseAcks_resume (s : State) (m : IrqLines) : (State.pulseAcks s m).resume = s.resume := rfl
@[simp] theorem State.pulseAcks_iackOut (s : State) (m : IrqLines) : (State.pulseAcks s m).iackOut = s.iackOut ||| m := rfl
@[simp] theorem State.pulseAcks_run (s : State) (m : IrqLines) : (State.pulseAcks s m).run = s.run := rfl
@[simp] theorem State.pulseAcks_iePrev (s : State) (m : IrqLines) : (State.pulseAcks s m).iePrev = s.iePrev := rfl
@[simp] theorem State.pulseAcks_imskPrev (s : State) (m : IrqLines) : (State.pulseAcks s m).imskPrev = s.imskPrev := rfl
@[simp] theorem State.pulseAcks_history (s : State) (m : IrqLines) : (State.pulseAcks s m).history = ackEvents m ++ s.history := rfl
@[simp] theorem State.pulseAcks_agenda (s : State) (m : IrqLines) : (State.pulseAcks s m).agenda = s.agenda := rfl
@[simp] theorem State.pulseAcks_draws (s : State) (m : IrqLines) : (State.pulseAcks s m).draws = s.draws := rfl

/-! ## setRun -/

@[simp] theorem State.setRun_par (s : State) (r : RunState) : (State.setRun s r).par = s.par := rfl
@[simp] theorem State.setRun_pc (s : State) (r : RunState) : (State.setRun s r).pc = s.pc := rfl
@[simp] theorem State.setRun_npc (s : State) (r : RunState) : (State.setRun s r).npc = s.npc := rfl
@[simp] theorem State.setRun_returned (s : State) (r : RunState) : (State.setRun s r).returned = s.returned := rfl
@[simp] theorem State.setRun_ilr (s : State) (r : RunState) : (State.setRun s r).ilr = s.ilr := rfl
@[simp] theorem State.setRun_sr (s : State) (r : RunState) : (State.setRun s r).sr = s.sr := rfl
@[simp] theorem State.setRun_imsk (s : State) (r : RunState) : (State.setRun s r).imsk = s.imsk := rfl
@[simp] theorem State.setRun_sp (s : State) (r : RunState) : (State.setRun s r).sp = s.sp := rfl
@[simp] theorem State.setRun_lcp (s : State) (r : RunState) : (State.setRun s r).lcp = s.lcp := rfl
@[simp] theorem State.setRun_loops (s : State) (r : RunState) : (State.setRun s r).loops = s.loops := rfl
@[simp] theorem State.setRun_regs (s : State) (r : RunState) : (State.setRun s r).regs = s.regs := rfl
@[simp] theorem State.setRun_mem (s : State) (r : RunState) : (State.setRun s r).mem = s.mem := rfl
@[simp] theorem State.setRun_pm (s : State) (r : RunState) : (State.setRun s r).pm = s.pm := rfl
@[simp] theorem State.setRun_irqInp (s : State) (r : RunState) : (State.setRun s r).irqInp = s.irqInp := rfl
@[simp] theorem State.setRun_resume (s : State) (r : RunState) : (State.setRun s r).resume = s.resume := rfl
@[simp] theorem State.setRun_iackOut (s : State) (r : RunState) : (State.setRun s r).iackOut = s.iackOut := rfl
@[simp] theorem State.setRun_run (s : State) (r : RunState) : (State.setRun s r).run = r := rfl
@[simp] theorem State.setRun_iePrev (s : State) (r : RunState) : (State.setRun s r).iePrev = s.iePrev := rfl
@[simp] theorem State.setRun_imskPrev (s : State) (r : RunState) : (State.setRun s r).imskPrev = s.imskPrev := rfl
@[simp] theorem State.setRun_history (s : State) (r : RunState) : (State.setRun s r).history = if s.powerdownOut = decide (r = .powerDown) then s.history else .powerdownOut (decide (r = .powerDown)) :: s.history := rfl
@[simp] theorem State.setRun_agenda (s : State) (r : RunState) : (State.setRun s r).agenda = s.agenda := rfl
@[simp] theorem State.setRun_draws (s : State) (r : RunState) : (State.setRun s r).draws = s.draws := rfl

/-! ## passBoundary -/

@[simp] theorem State.passBoundary_par (s : State) : (State.passBoundary s).par = s.par := rfl
@[simp] theorem State.passBoundary_pc (s : State) : (State.passBoundary s).pc = s.pc := rfl
@[simp] theorem State.passBoundary_npc (s : State) : (State.passBoundary s).npc = s.npc := rfl
@[simp] theorem State.passBoundary_returned (s : State) : (State.passBoundary s).returned = s.returned := rfl
@[simp] theorem State.passBoundary_ilr (s : State) : (State.passBoundary s).ilr = s.ilr := rfl
@[simp] theorem State.passBoundary_sr (s : State) : (State.passBoundary s).sr = s.sr := rfl
@[simp] theorem State.passBoundary_imsk (s : State) : (State.passBoundary s).imsk = s.imsk := rfl
@[simp] theorem State.passBoundary_sp (s : State) : (State.passBoundary s).sp = s.sp := rfl
@[simp] theorem State.passBoundary_lcp (s : State) : (State.passBoundary s).lcp = s.lcp := rfl
@[simp] theorem State.passBoundary_loops (s : State) : (State.passBoundary s).loops = s.loops := rfl
@[simp] theorem State.passBoundary_regs (s : State) : (State.passBoundary s).regs = s.regs := rfl
@[simp] theorem State.passBoundary_mem (s : State) : (State.passBoundary s).mem = s.mem := rfl
@[simp] theorem State.passBoundary_pm (s : State) : (State.passBoundary s).pm = s.pm := rfl
@[simp] theorem State.passBoundary_irqInp (s : State) : (State.passBoundary s).irqInp = s.irqInp := rfl
@[simp] theorem State.passBoundary_resume (s : State) : (State.passBoundary s).resume = s.resume := rfl
@[simp] theorem State.passBoundary_iackOut (s : State) : (State.passBoundary s).iackOut = s.iackOut := rfl
@[simp] theorem State.passBoundary_run (s : State) : (State.passBoundary s).run = s.run := rfl
@[simp] theorem State.passBoundary_iePrev (s : State) : (State.passBoundary s).iePrev = s.sr.ie := rfl
@[simp] theorem State.passBoundary_imskPrev (s : State) : (State.passBoundary s).imskPrev = s.imsk := rfl
@[simp] theorem State.passBoundary_history (s : State) : (State.passBoundary s).history = s.history := rfl
@[simp] theorem State.passBoundary_agenda (s : State) : (State.passBoundary s).agenda = s.agenda := rfl
@[simp] theorem State.passBoundary_draws (s : State) : (State.passBoundary s).draws = s.draws := rfl

/-! ## setNext -/

@[simp] theorem State.setNext_par (s : State) (a : Nat) : (State.setNext s a).par = s.par := rfl
@[simp] theorem State.setNext_pc (s : State) (a : Nat) : (State.setNext s a).pc = s.pc := rfl
@[simp] theorem State.setNext_npc (s : State) (a : Nat) : (State.setNext s a).npc = a := rfl
@[simp] theorem State.setNext_returned (s : State) (a : Nat) : (State.setNext s a).returned = false := rfl
@[simp] theorem State.setNext_ilr (s : State) (a : Nat) : (State.setNext s a).ilr = s.ilr := rfl
@[simp] theorem State.setNext_sr (s : State) (a : Nat) : (State.setNext s a).sr = s.sr := rfl
@[simp] theorem State.setNext_imsk (s : State) (a : Nat) : (State.setNext s a).imsk = s.imsk := rfl
@[simp] theorem State.setNext_sp (s : State) (a : Nat) : (State.setNext s a).sp = s.sp := rfl
@[simp] theorem State.setNext_lcp (s : State) (a : Nat) : (State.setNext s a).lcp = s.lcp := rfl
@[simp] theorem State.setNext_loops (s : State) (a : Nat) : (State.setNext s a).loops = s.loops := rfl
@[simp] theorem State.setNext_regs (s : State) (a : Nat) : (State.setNext s a).regs = s.regs := rfl
@[simp] theorem State.setNext_mem (s : State) (a : Nat) : (State.setNext s a).mem = s.mem := rfl
@[simp] theorem State.setNext_pm (s : State) (a : Nat) : (State.setNext s a).pm = s.pm := rfl
@[simp] theorem State.setNext_irqInp (s : State) (a : Nat) : (State.setNext s a).irqInp = s.irqInp := rfl
@[simp] theorem State.setNext_resume (s : State) (a : Nat) : (State.setNext s a).resume = s.resume := rfl
@[simp] theorem State.setNext_iackOut (s : State) (a : Nat) : (State.setNext s a).iackOut = s.iackOut := rfl
@[simp] theorem State.setNext_run (s : State) (a : Nat) : (State.setNext s a).run = s.run := rfl
@[simp] theorem State.setNext_iePrev (s : State) (a : Nat) : (State.setNext s a).iePrev = s.iePrev := rfl
@[simp] theorem State.setNext_imskPrev (s : State) (a : Nat) : (State.setNext s a).imskPrev = s.imskPrev := rfl
@[simp] theorem State.setNext_history (s : State) (a : Nat) : (State.setNext s a).history = s.history := rfl
@[simp] theorem State.setNext_agenda (s : State) (a : Nat) : (State.setNext s a).agenda = s.agenda := rfl
@[simp] theorem State.setNext_draws (s : State) (a : Nat) : (State.setNext s a).draws = s.draws := rfl

/-! ## hardReset -/

@[simp] theorem State.hardReset_par (s : State) : (State.hardReset s).par = s.par := rfl
@[simp] theorem State.hardReset_pc (s : State) : (State.hardReset s).pc = 0 := rfl
@[simp] theorem State.hardReset_npc (s : State) : (State.hardReset s).npc = 0 := rfl
@[simp] theorem State.hardReset_returned (s : State) : (State.hardReset s).returned = false := rfl
@[simp] theorem State.hardReset_ilr (s : State) : (State.hardReset s).ilr = 0 := rfl
@[simp] theorem State.hardReset_sr (s : State) : (State.hardReset s).sr = .reset := rfl
@[simp] theorem State.hardReset_imsk (s : State) : (State.hardReset s).imsk = Config.imskReset := rfl
@[simp] theorem State.hardReset_sp (s : State) : (State.hardReset s).sp = 0 := rfl
@[simp] theorem State.hardReset_lcp (s : State) : (State.hardReset s).lcp = 4 := rfl
@[simp] theorem State.hardReset_loops (s : State) : (State.hardReset s).loops = Vector.replicate 4 ⟨0, 0, 0⟩ := rfl
@[simp] theorem State.hardReset_regs (s : State) : (State.hardReset s).regs = [] := rfl
@[simp] theorem State.hardReset_mem (s : State) : (State.hardReset s).mem = [] := rfl
@[simp] theorem State.hardReset_pm (s : State) : (State.hardReset s).pm = s.pm := rfl
@[simp] theorem State.hardReset_irqInp (s : State) : (State.hardReset s).irqInp = s.irqInp := rfl
@[simp] theorem State.hardReset_resume (s : State) : (State.hardReset s).resume = s.resume := rfl
@[simp] theorem State.hardReset_iackOut (s : State) : (State.hardReset s).iackOut = 0 := rfl
@[simp] theorem State.hardReset_run (s : State) : (State.hardReset s).run = .running := rfl
@[simp] theorem State.hardReset_iePrev (s : State) : (State.hardReset s).iePrev = false := rfl
@[simp] theorem State.hardReset_imskPrev (s : State) : (State.hardReset s).imskPrev = Config.imskReset := rfl
@[simp] theorem State.hardReset_history (s : State) : (State.hardReset s).history = (s.setRun .running).history := rfl
@[simp] theorem State.hardReset_agenda (s : State) : (State.hardReset s).agenda = s.agenda := rfl
@[simp] theorem State.hardReset_draws (s : State) : (State.hardReset s).draws = s.draws := rfl

/-! ## startTurn -/

@[simp] theorem State.startTurn_par (s : State) (rest : List Move) : (State.startTurn s rest).par = s.par := rfl
@[simp] theorem State.startTurn_pc (s : State) (rest : List Move) : (State.startTurn s rest).pc = s.pc := rfl
@[simp] theorem State.startTurn_npc (s : State) (rest : List Move) : (State.startTurn s rest).npc = s.npc := rfl
@[simp] theorem State.startTurn_returned (s : State) (rest : List Move) : (State.startTurn s rest).returned = s.returned := rfl
@[simp] theorem State.startTurn_ilr (s : State) (rest : List Move) : (State.startTurn s rest).ilr = s.ilr := rfl
@[simp] theorem State.startTurn_sr (s : State) (rest : List Move) : (State.startTurn s rest).sr = s.sr := rfl
@[simp] theorem State.startTurn_imsk (s : State) (rest : List Move) : (State.startTurn s rest).imsk = s.imsk := rfl
@[simp] theorem State.startTurn_sp (s : State) (rest : List Move) : (State.startTurn s rest).sp = s.sp := rfl
@[simp] theorem State.startTurn_lcp (s : State) (rest : List Move) : (State.startTurn s rest).lcp = s.lcp := rfl
@[simp] theorem State.startTurn_loops (s : State) (rest : List Move) : (State.startTurn s rest).loops = s.loops := rfl
@[simp] theorem State.startTurn_regs (s : State) (rest : List Move) : (State.startTurn s rest).regs = s.regs := rfl
@[simp] theorem State.startTurn_mem (s : State) (rest : List Move) : (State.startTurn s rest).mem = s.mem := rfl
@[simp] theorem State.startTurn_pm (s : State) (rest : List Move) : (State.startTurn s rest).pm = s.pm := rfl
@[simp] theorem State.startTurn_irqInp (s : State) (rest : List Move) : (State.startTurn s rest).irqInp = s.irqInp := rfl
@[simp] theorem State.startTurn_resume (s : State) (rest : List Move) : (State.startTurn s rest).resume = s.resume := rfl
@[simp] theorem State.startTurn_iackOut (s : State) (rest : List Move) : (State.startTurn s rest).iackOut = 0 := rfl
@[simp] theorem State.startTurn_run (s : State) (rest : List Move) : (State.startTurn s rest).run = s.run := rfl
@[simp] theorem State.startTurn_iePrev (s : State) (rest : List Move) : (State.startTurn s rest).iePrev = s.iePrev := rfl
@[simp] theorem State.startTurn_imskPrev (s : State) (rest : List Move) : (State.startTurn s rest).imskPrev = s.imskPrev := rfl
@[simp] theorem State.startTurn_history (s : State) (rest : List Move) : (State.startTurn s rest).history = s.history := rfl
@[simp] theorem State.startTurn_agenda (s : State) (rest : List Move) : (State.startTurn s rest).agenda = rest := rfl
@[simp] theorem State.startTurn_draws (s : State) (rest : List Move) : (State.startTurn s rest).draws = s.draws := rfl

/-! ## driveInputs -/

@[simp] theorem State.driveInputs_par (s : State) (irq : IrqLines) (r : Bool) : (State.driveInputs s irq r).par = s.par := rfl
@[simp] theorem State.driveInputs_pc (s : State) (irq : IrqLines) (r : Bool) : (State.driveInputs s irq r).pc = s.pc := rfl
@[simp] theorem State.driveInputs_npc (s : State) (irq : IrqLines) (r : Bool) : (State.driveInputs s irq r).npc = s.npc := rfl
@[simp] theorem State.driveInputs_returned (s : State) (irq : IrqLines) (r : Bool) : (State.driveInputs s irq r).returned = s.returned := rfl
@[simp] theorem State.driveInputs_ilr (s : State) (irq : IrqLines) (r : Bool) : (State.driveInputs s irq r).ilr = s.ilr := rfl
@[simp] theorem State.driveInputs_sr (s : State) (irq : IrqLines) (r : Bool) : (State.driveInputs s irq r).sr = s.sr := rfl
@[simp] theorem State.driveInputs_imsk (s : State) (irq : IrqLines) (r : Bool) : (State.driveInputs s irq r).imsk = s.imsk := rfl
@[simp] theorem State.driveInputs_sp (s : State) (irq : IrqLines) (r : Bool) : (State.driveInputs s irq r).sp = s.sp := rfl
@[simp] theorem State.driveInputs_lcp (s : State) (irq : IrqLines) (r : Bool) : (State.driveInputs s irq r).lcp = s.lcp := rfl
@[simp] theorem State.driveInputs_loops (s : State) (irq : IrqLines) (r : Bool) : (State.driveInputs s irq r).loops = s.loops := rfl
@[simp] theorem State.driveInputs_regs (s : State) (irq : IrqLines) (r : Bool) : (State.driveInputs s irq r).regs = s.regs := rfl
@[simp] theorem State.driveInputs_mem (s : State) (irq : IrqLines) (r : Bool) : (State.driveInputs s irq r).mem = s.mem := rfl
@[simp] theorem State.driveInputs_pm (s : State) (irq : IrqLines) (r : Bool) : (State.driveInputs s irq r).pm = s.pm := rfl
@[simp] theorem State.driveInputs_irqInp (s : State) (irq : IrqLines) (r : Bool) : (State.driveInputs s irq r).irqInp = irq := rfl
@[simp] theorem State.driveInputs_resume (s : State) (irq : IrqLines) (r : Bool) : (State.driveInputs s irq r).resume = r := rfl
@[simp] theorem State.driveInputs_iackOut (s : State) (irq : IrqLines) (r : Bool) : (State.driveInputs s irq r).iackOut = s.iackOut := rfl
@[simp] theorem State.driveInputs_run (s : State) (irq : IrqLines) (r : Bool) : (State.driveInputs s irq r).run = s.run := rfl
@[simp] theorem State.driveInputs_iePrev (s : State) (irq : IrqLines) (r : Bool) : (State.driveInputs s irq r).iePrev = s.iePrev := rfl
@[simp] theorem State.driveInputs_imskPrev (s : State) (irq : IrqLines) (r : Bool) : (State.driveInputs s irq r).imskPrev = s.imskPrev := rfl
@[simp] theorem State.driveInputs_history (s : State) (irq : IrqLines) (r : Bool) : (State.driveInputs s irq r).history = s.history := rfl
@[simp] theorem State.driveInputs_agenda (s : State) (irq : IrqLines) (r : Bool) : (State.driveInputs s irq r).agenda = s.agenda := rfl
@[simp] theorem State.driveInputs_draws (s : State) (irq : IrqLines) (r : Bool) : (State.driveInputs s irq r).draws = s.draws := rfl

/-! ## holdWindow -/

@[simp] theorem State.holdWindow_par (s : State) : (State.holdWindow s).par = s.par := by
  unfold State.holdWindow; split <;> rfl
@[simp] theorem State.holdWindow_pc (s : State) : (State.holdWindow s).pc = s.pc := by
  unfold State.holdWindow; split <;> rfl
@[simp] theorem State.holdWindow_npc (s : State) : (State.holdWindow s).npc = s.npc := by
  unfold State.holdWindow; split <;> rfl
@[simp] theorem State.holdWindow_returned (s : State) : (State.holdWindow s).returned = s.returned := by
  unfold State.holdWindow; split <;> rfl
@[simp] theorem State.holdWindow_ilr (s : State) : (State.holdWindow s).ilr = s.ilr := by
  unfold State.holdWindow; split <;> rfl
@[simp] theorem State.holdWindow_sr (s : State) : (State.holdWindow s).sr = s.sr := by
  unfold State.holdWindow; split <;> rfl
@[simp] theorem State.holdWindow_imsk (s : State) : (State.holdWindow s).imsk = s.imsk := by
  unfold State.holdWindow; split <;> rfl
@[simp] theorem State.holdWindow_sp (s : State) : (State.holdWindow s).sp = s.sp := by
  unfold State.holdWindow; split <;> rfl
@[simp] theorem State.holdWindow_lcp (s : State) : (State.holdWindow s).lcp = s.lcp := by
  unfold State.holdWindow; split <;> rfl
@[simp] theorem State.holdWindow_loops (s : State) : (State.holdWindow s).loops = s.loops := by
  unfold State.holdWindow; split <;> rfl
@[simp] theorem State.holdWindow_regs (s : State) : (State.holdWindow s).regs = s.regs := by
  unfold State.holdWindow; split <;> rfl
@[simp] theorem State.holdWindow_mem (s : State) : (State.holdWindow s).mem = s.mem := by
  unfold State.holdWindow; split <;> rfl
@[simp] theorem State.holdWindow_pm (s : State) : (State.holdWindow s).pm = s.pm := by
  unfold State.holdWindow; split <;> rfl
@[simp] theorem State.holdWindow_irqInp (s : State) : (State.holdWindow s).irqInp = s.irqInp := by
  unfold State.holdWindow; split <;> rfl
@[simp] theorem State.holdWindow_resume (s : State) : (State.holdWindow s).resume = s.resume := by
  unfold State.holdWindow; split <;> rfl
@[simp] theorem State.holdWindow_iackOut (s : State) : (State.holdWindow s).iackOut = s.iackOut := by
  unfold State.holdWindow; split <;> rfl
@[simp] theorem State.holdWindow_run (s : State) : (State.holdWindow s).run = s.run := by
  unfold State.holdWindow; split <;> rfl
@[simp] theorem State.holdWindow_history (s : State) : (State.holdWindow s).history = s.history := by
  unfold State.holdWindow; split <;> rfl
@[simp] theorem State.holdWindow_agenda (s : State) : (State.holdWindow s).agenda = s.agenda := by
  unfold State.holdWindow; split <;> rfl
@[simp] theorem State.holdWindow_draws (s : State) : (State.holdWindow s).draws = s.draws := by
  unfold State.holdWindow; split <;> rfl

/-! ## runFromTo -/

@[simp] theorem State.runFromTo_par (s : State) (a b : RunState) : (State.runFromTo s a b).par = s.par := by
  unfold State.runFromTo; split <;> rfl
@[simp] theorem State.runFromTo_pc (s : State) (a b : RunState) : (State.runFromTo s a b).pc = s.pc := by
  unfold State.runFromTo; split <;> rfl
@[simp] theorem State.runFromTo_npc (s : State) (a b : RunState) : (State.runFromTo s a b).npc = s.npc := by
  unfold State.runFromTo; split <;> rfl
@[simp] theorem State.runFromTo_returned (s : State) (a b : RunState) : (State.runFromTo s a b).returned = s.returned := by
  unfold State.runFromTo; split <;> rfl
@[simp] theorem State.runFromTo_ilr (s : State) (a b : RunState) : (State.runFromTo s a b).ilr = s.ilr := by
  unfold State.runFromTo; split <;> rfl
@[simp] theorem State.runFromTo_sr (s : State) (a b : RunState) : (State.runFromTo s a b).sr = s.sr := by
  unfold State.runFromTo; split <;> rfl
@[simp] theorem State.runFromTo_imsk (s : State) (a b : RunState) : (State.runFromTo s a b).imsk = s.imsk := by
  unfold State.runFromTo; split <;> rfl
@[simp] theorem State.runFromTo_sp (s : State) (a b : RunState) : (State.runFromTo s a b).sp = s.sp := by
  unfold State.runFromTo; split <;> rfl
@[simp] theorem State.runFromTo_lcp (s : State) (a b : RunState) : (State.runFromTo s a b).lcp = s.lcp := by
  unfold State.runFromTo; split <;> rfl
@[simp] theorem State.runFromTo_loops (s : State) (a b : RunState) : (State.runFromTo s a b).loops = s.loops := by
  unfold State.runFromTo; split <;> rfl
@[simp] theorem State.runFromTo_regs (s : State) (a b : RunState) : (State.runFromTo s a b).regs = s.regs := by
  unfold State.runFromTo; split <;> rfl
@[simp] theorem State.runFromTo_mem (s : State) (a b : RunState) : (State.runFromTo s a b).mem = s.mem := by
  unfold State.runFromTo; split <;> rfl
@[simp] theorem State.runFromTo_pm (s : State) (a b : RunState) : (State.runFromTo s a b).pm = s.pm := by
  unfold State.runFromTo; split <;> rfl
@[simp] theorem State.runFromTo_irqInp (s : State) (a b : RunState) : (State.runFromTo s a b).irqInp = s.irqInp := by
  unfold State.runFromTo; split <;> rfl
@[simp] theorem State.runFromTo_resume (s : State) (a b : RunState) : (State.runFromTo s a b).resume = s.resume := by
  unfold State.runFromTo; split <;> rfl
@[simp] theorem State.runFromTo_iackOut (s : State) (a b : RunState) : (State.runFromTo s a b).iackOut = s.iackOut := by
  unfold State.runFromTo; split <;> rfl
@[simp] theorem State.runFromTo_run (s : State) (a b : RunState) : (State.runFromTo s a b).run = if s.run = a then b else s.run := by
  unfold State.runFromTo; split <;> rfl
@[simp] theorem State.runFromTo_iePrev (s : State) (a b : RunState) : (State.runFromTo s a b).iePrev = s.iePrev := by
  unfold State.runFromTo; split <;> rfl
@[simp] theorem State.runFromTo_imskPrev (s : State) (a b : RunState) : (State.runFromTo s a b).imskPrev = s.imskPrev := by
  unfold State.runFromTo; split <;> rfl
@[simp] theorem State.runFromTo_history (s : State) (a b : RunState) : (State.runFromTo s a b).history = s.history := by
  unfold State.runFromTo; split <;> rfl
@[simp] theorem State.runFromTo_agenda (s : State) (a b : RunState) : (State.runFromTo s a b).agenda = s.agenda := by
  unfold State.runFromTo; split <;> rfl
@[simp] theorem State.runFromTo_draws (s : State) (a b : RunState) : (State.runFromTo s a b).draws = s.draws := by
  unfold State.runFromTo; split <;> rfl

/-! ## The status register -/

@[simp] theorem StatusReg.enter_ie (r : StatusReg) : (r.enter).ie = false := rfl
@[simp] theorem StatusReg.enter_v (r : StatusReg) : (r.enter).v = r.v := rfl
@[simp] theorem StatusReg.enter_n (r : StatusReg) : (r.enter).n = r.n := rfl
@[simp] theorem StatusReg.enter_z (r : StatusReg) : (r.enter).z = r.z := rfl
@[simp] theorem StatusReg.enter_srmeOther (r : StatusReg) : (r.enter).srmeOther = r.srmeOther := rfl
@[simp] theorem StatusReg.enter_ie0 (r : StatusReg) : (r.enter).ie0 = r.ie := rfl
@[simp] theorem StatusReg.enter_other0 (r : StatusReg) : (r.enter).other0 = r.srmeOther := rfl
@[simp] theorem StatusReg.enter_rest (r : StatusReg) : (r.enter).rest = r.rest := rfl
@[simp] theorem StatusReg.restore_ie (r : StatusReg) : (r.restore).ie = r.ie0 := rfl
@[simp] theorem StatusReg.restore_v (r : StatusReg) : (r.restore).v = r.v := rfl
@[simp] theorem StatusReg.restore_n (r : StatusReg) : (r.restore).n = r.n := rfl
@[simp] theorem StatusReg.restore_z (r : StatusReg) : (r.restore).z = r.z := rfl
@[simp] theorem StatusReg.restore_srmeOther (r : StatusReg) : (r.restore).srmeOther = r.other0 := rfl
@[simp] theorem StatusReg.restore_ie0 (r : StatusReg) : (r.restore).ie0 = r.ie0 := rfl
@[simp] theorem StatusReg.restore_other0 (r : StatusReg) : (r.restore).other0 = r.other0 := rfl
@[simp] theorem StatusReg.restore_rest (r : StatusReg) : (r.restore).rest = r.rest := rfl

end Sys2Proof.Machine
end

