-- ==== Sys2Proof/Laws/Status.lean ====
section
/-! SUPPORT. The status register and its image in a slot. -/

namespace Sys2Proof.Machine

theorem bitsVal_lt (f : Nat → Bool) (k : Nat) : bitsVal f k < 2 ^ k := by
  induction k with
  | zero => simp [bitsVal]
  | succ k ih =>
    simp only [bitsVal, Nat.pow_succ]
    split <;> omega

theorem testBit_bitsVal (f : Nat → Bool) (k i : Nat) : (bitsVal f k).testBit i = (decide (i < k) && f i) := by
  induction k with
  | zero => simp [bitsVal]
  | succ k ih =>
    have hlt := bitsVal_lt f k
    simp only [bitsVal]
    by_cases hf : f k = true
    · rw [if_pos hf, Nat.add_comm]
      rcases Nat.lt_trichotomy i k with h | rfl | h
      · rw [Nat.testBit_two_pow_add_gt h, ih]; simp [h, Nat.lt_succ_of_lt h]
      · rw [Nat.testBit_two_pow_add_eq, ih]; simp [hf]
      · rw [Nat.testBit_lt_two_pow]
        · simp; omega
        · calc 2 ^ k + bitsVal f k < 2 ^ k + 2 ^ k := by omega
            _ = 2 ^ (k + 1) := by rw [Nat.pow_succ]; omega
            _ ≤ 2 ^ i := Nat.pow_le_pow_right (by decide) h
    · rw [if_neg hf, Nat.add_zero, ih]
      by_cases hi : i = k
      · subst hi; simp [hf]
      · have : decide (i < k + 1) = decide (i < k) := by
          simp only [decide_eq_decide]; omega
        rw [this]

/-- The bits of a vector put together from bits. -/
theorem getLsbD_wordOfBits (f : Nat → Bool) (i : Nat) :
    (wordOfBits f).getLsbD i = (decide (i < 32) && f i) := by
  rw [wordOfBits, BitVec.getLsbD_ofNat, testBit_bitsVal]
  by_cases h : i < 32 <;> simp [h]

@[simp] theorem getElem_wordOfBits (f : Nat → Bool) (i : Nat) (h : i < 32) : (wordOfBits f)[i] = f i := by
  rw [← BitVec.getLsbD_eq_getElem h, getLsbD_wordOfBits]
  simp [h]

/-- Two status registers with the same bits are the same. -/
theorem StatusReg.ext_get {r q : StatusReg} (h : ∀ b, r.get b = q.get b) : r = q := by
  have vec : ∀ {x y : BitVec 32}, (∀ i : Fin 32, x.getLsbD i = y.getLsbD i) → x = y := by
    intro x y hxy
    exact BitVec.eq_of_getLsbD_eq fun i hi => hxy ⟨i, hi⟩
  have h1 := vec fun i => h (.other i)
  have h2 := vec fun i => h (.other0 i)
  have h3 := vec fun i => h (.rest i)
  have hie := h .ie
  have hv := h .v
  have hn := h .n
  have hz := h .z
  have hie0 := h .ie0
  cases r
  cases q
  simp_all [StatusReg.get]

/-- Each bit of a status register put together from bits is the bit given. -/
@[simp] theorem StatusReg.get_ofBits (f : SrBit → Bool) (b : SrBit) : (StatusReg.ofBits f).get b = f b := by
  cases b <;> simp [StatusReg.get, StatusReg.ofBits]

/-- A status register fits a layout when each bit the layout does not have is 0. -/
theorem StatusReg.fits_iff {l : List SrBit} {r : StatusReg} :
    r.fits l = true ↔ ∀ b, l.contains b = false → r.get b = false := by
  simp only [StatusReg.fits, beq_iff_eq]
  constructor
  · intro h b hb
    rw [h, StatusReg.get_ofBits, hb]
    rfl
  · intro h
    apply StatusReg.ext_get
    intro b
    rw [StatusReg.get_ofBits]
    cases hb : l.contains b
    · simp [h b hb]
    · simp

theorem StatusReg.fits_ofImage (l : List SrBit) (w : Word) : (StatusReg.ofImage l w).fits l = true := by
  rw [StatusReg.fits_iff]
  intro b hb
  rw [StatusReg.ofImage, StatusReg.get_ofBits, hb]
  rfl

/-- The bits of an image are the status register's, in the layout's places. -/
theorem StatusReg.getLsbD_image {l : List SrBit} (hl : l.length ≤ 32) (r : StatusReg) {b : SrBit} (hb : b ∈ l) :
    (r.image l).getLsbD (l.idxOf b) = r.get b := by
  have hi : l.idxOf b < l.length := List.idxOf_lt_length_of_mem hb
  have h32 : l.idxOf b < 32 := by omega
  simp [StatusReg.image, h32, List.getElem?_eq_getElem hi, List.getElem_idxOf]

/-- An image fits in SRW bits. -/
theorem StatusReg.image_lt (l : List SrBit) (r : StatusReg) :
    (r.image l).toNat < 2 ^ l.length := by
  apply Nat.lt_pow_two_of_testBit
  intro i hi
  have h := getLsbD_wordOfBits (fun j => (l[j]?.map r.get).getD false) i
  rw [BitVec.getLsbD] at h
  rw [StatusReg.image, h]
  simp [List.getElem?_eq_none hi]

/-- A status register is read back from its image (43_stack_loopregs.md R144). -/
theorem StatusReg.ofImage_image {l : List SrBit} (hl : l.length ≤ 32) {r : StatusReg} (hr : r.fits l = true) :
    StatusReg.ofImage l (r.image l) = r := by
  apply StatusReg.ext_get
  intro b
  rw [StatusReg.ofImage, StatusReg.get_ofBits]
  cases hb : l.contains b
  · rw [StatusReg.fits_iff.1 hr b hb]; rfl
  · rw [StatusReg.getLsbD_image hl r (List.contains_iff_mem.1 hb)]; rfl

/-- What a lawful layout has. -/
theorem srLayoutLawful_iff {l : List SrBit} : srLayoutLawful l = true ↔
    (l.Nodup ∧ l.length ≤ 32) ∧ (l.contains .ie = true ∧ l.contains .v = true ∧ l.contains .n = true ∧
      l.contains .z = true ∧ l.contains .ie0 = true) ∧
    ∀ i : Fin 32, l.contains (.other i) = l.contains (.other0 i) := by
  simp [srLayoutLawful, List.all_eq_true, and_assoc]

/-- Entry keeps the status register within its layout. -/
theorem StatusReg.fits_enter {l : List SrBit} (hl : srLayoutLawful l = true) {r : StatusReg} (hr : r.fits l = true) :
    r.enter.fits l = true := by
  have hs := srLayoutLawful_iff.1 hl
  rw [StatusReg.fits_iff] at *
  intro b hb
  cases b with
  | ie => simp [StatusReg.get]
  | v => exact hr .v hb
  | n => exact hr .n hb
  | z => exact hr .z hb
  | ie0 => rw [hs.2.1.2.2.2.2] at hb; cases hb
  | other i => exact hr (.other i) hb
  | other0 i => exact hr (.other i) ((hs.2.2 i).trans hb)
  | rest i => exact hr (.rest i) hb

/-- So does the return. -/
theorem StatusReg.fits_restore {l : List SrBit} (hl : srLayoutLawful l = true) {r : StatusReg} (hr : r.fits l = true) :
    r.restore.fits l = true := by
  have hs := srLayoutLawful_iff.1 hl
  rw [StatusReg.fits_iff] at *
  intro b hb
  cases b with
  | ie => rw [hs.2.1.1] at hb; cases hb
  | v => exact hr .v hb
  | n => exact hr .n hb
  | z => exact hr .z hb
  | ie0 => exact hr .ie0 hb
  | other i => exact hr (.other0 i) ((hs.2.2 i).symm.trans hb)
  | other0 i => exact hr (.other0 i) hb
  | rest i => exact hr (.rest i) hb

end Sys2Proof.Machine
end

