-- ==== Sys2Proof/Laws/Operands.lean ====
section
/-! SUPPORT. What each shared operand operation can do, said once. -/

namespace Sys2Proof.Machine

theorem toNat_lowBits {width : Nat} (h : width ≤ 32) (v : Word) : (lowBits width v).toNat = v.toNat % 2 ^ width := by
  have h1 : 2 ^ width ≤ 2 ^ 32 := Nat.pow_le_pow_right (by decide) h
  have h2 : v.toNat % 2 ^ width < 2 ^ width := Nat.mod_lt _ (Nat.pow_pos (by decide))
  rw [lowBits, BitVec.toNat_ofNat]
  exact Nat.mod_eq_of_lt (Nat.lt_of_lt_of_le h2 h1)

theorem lowBits_lt {width : Nat} (h : width ≤ 32) (v : Word) : (lowBits width v).toNat < 2 ^ width := by
  rw [toNat_lowBits h]
  exact Nat.mod_lt _ (Nat.pow_pos (by decide))

theorem unpack_lt {width : Nat} (h : width ≤ 32) (w : Word) : (unpack width w).toNat < 2 ^ width := lowBits_lt h w

/-- A value of `width` bits comes back from its slot, whatever the bits above it were (43_stack_loopregs.md R144). -/
theorem unpack_pack {width : Nat} (h : width ≤ 32) (v free : Word) (hv : v.toNat < 2 ^ width) :
    unpack width (pack width v free) = v := by
  apply BitVec.eq_of_toNat_eq
  rw [unpack, toNat_lowBits h, pack]
  split
  · rw [BitVec.toNat_ofNat, Nat.mod_eq_of_lt hv]
    have hp : 2 ^ 32 = 2 ^ width * 2 ^ (32 - width) := by rw [← Nat.pow_add]; congr 1; omega
    rw [hp, Nat.mod_mul_right_mod, Nat.add_mul_mod_self_left, Nat.mod_eq_of_lt hv]
  · exact Nat.mod_eq_of_lt hv

theorem State.slotAddr_lt (s : State) (o : Nat) : s.slotAddr o < 2 ^ s.par.aw := Nat.mod_lt _ (Nat.pow_pos (by decide))

theorem State.spPlus_lt (s : State) (n : Int) : s.spPlus n < 2 ^ s.par.aw := by
  have hpos : (0 : Int) < (2 ^ s.par.aw : Nat) := by exact_mod_cast Nat.pow_pos (by decide)
  have h1 := Int.emod_nonneg ((s.sp : Int) + n) (Int.ne_of_gt hpos)
  have h2 := Int.emod_lt_of_pos ((s.sp : Int) + n) hpos
  unfold State.spPlus
  generalize ((s.sp : Int) + n) % ((2 ^ s.par.aw : Nat) : Int) = x at h1 h2 ⊢
  generalize 2 ^ s.par.aw = y at h2 ⊢
  omega

/-- Where a data access is admitted. -/
theorem Params.slotAdmitted_iff {p : Params} {a : Nat} :
    Params.slotAdmitted p a = true ↔ a % 4 = 0 ∧ p.stackLo ≤ a ∧ a + 4 ≤ p.stackHi := by simp [Params.slotAdmitted]

/-- A write answers exactly where the access is admitted, and then does nothing but write the slot. -/
theorem State.memWrite_next {s t : State} {a : Nat} {w : Word} :
    s.memWrite a w = .next t ↔ Params.slotAdmitted s.par a = true ∧ t = s.putSlot a w := by
  unfold State.memWrite
  cases h : Params.slotAdmitted s.par a
  · simp
  · simp only [if_true, Host.Outcome.next.injEq, true_and]
    exact eq_comm

/-- A read answers exactly where the access is admitted and the slot has been written. -/
theorem State.memRead_next {s : State} {a : Nat} {w : Word} :
    s.memRead a = .next w ↔ Params.slotAdmitted s.par a = true ∧ Memory.readSlot s.par.bigEndian s.mem a = some w := by
  unfold State.memRead
  split
  · split <;> simp_all
  · simp_all

/-- An instruction whose operands are admitted means what its meaning says; the others are refused by name. -/
theorem ifAdmitted_next {i : Instr} {r : Result} {t : State} :
    ifAdmitted i r = .next t ↔ i.defect = none ∧ r = .next t := by
  unfold ifAdmitted
  cases h : i.defect <;> simp

/-- An instruction with an operand the spec does not admit is refused under the defect's name. -/
theorem ifAdmitted_of_defect {i : Instr} {d : Defect} (h : i.defect = some d) (r : Result) :
    ifAdmitted i r = .refused (.notAdmitted d) := by simp [ifAdmitted, h]

/-- An instruction whose operands are admitted means what its meaning says. -/
theorem ifAdmitted_of_none {i : Instr} (h : i.defect = none) (r : Result) : ifAdmitted i r = r := by
  simp [ifAdmitted, h]

/-- Everything a store `sp[o] = r` can answer as a next state. -/
theorem State.storeAt_next {s t : State} {o width : Nat} {v : Word} :
    s.storeAt o width v = .next t ↔ Params.slotAdmitted s.par (s.slotAddr o) = true ∧
      t = s.draw.2.advance.putSlot (s.slotAddr o) (pack width v s.draw.1) := by
  unfold State.storeAt
  rw [State.memWrite_next]
  exact Iff.rfl

/-- A load goes on exactly where its slot can be read, with the slot's value. -/
theorem State.loadAt_next {s t : State} {o : Nat} {k : Word → Result} :
    s.loadAt o k = .next t ↔ ∃ w, Params.slotAdmitted s.par (s.slotAddr o) = true ∧
      Memory.readSlot s.par.bigEndian s.mem (s.slotAddr o) = some w ∧ k w = .next t := by
  unfold State.loadAt
  cases h : s.memRead (s.slotAddr o) with
  | next w =>
    rw [State.memRead_next] at h
    simp_all
  | fault f =>
    simp only [reduceCtorEq, false_iff]
    rintro ⟨w, h1, h2, -⟩
    rw [State.memRead_next.2 ⟨h1, h2⟩] at h
    cases h
  | refused r =>
    simp only [reduceCtorEq, false_iff]
    rintro ⟨w, h1, h2, -⟩
    rw [State.memRead_next.2 ⟨h1, h2⟩] at h
    cases h

/-- The window is the set LCP names. -/
theorem State.window_eq_some {s : State} {i : Fin 4} : s.window = some i ↔ s.lcp.val = i.val := by
  unfold State.window
  constructor
  · intro h
    split at h
    · cases h; rfl
    · cases h
  · intro h
    have := i.isLt
    rw [dif_pos (by omega)]
    congr 1
    exact Fin.ext h

/-- A form that names a window register goes on exactly where LCP names a set. -/
theorem State.withWindow_next {s t : State} {k : Fin 4 → Result} :
    s.withWindow k = .next t ↔ ∃ i : Fin 4, s.lcp.val = i.val ∧ k i = .next t := by
  unfold State.withWindow
  cases h : s.window with
  | none =>
    simp only [reduceCtorEq, false_iff]
    rintro ⟨i, hi, -⟩
    rw [State.window_eq_some.2 hi] at h
    cases h
  | some i =>
    rw [State.window_eq_some] at h
    constructor
    · exact fun hk => ⟨i, h, hk⟩
    · rintro ⟨j, hj, hk⟩
      have : i = j := Fin.ext (h.symm.trans hj)
      exact this ▸ hk

@[simp] theorem State.loopSet_setLoopSet_self (s : State) (i : Fin 4) (x : LoopSet) :
    (s.setLoopSet i x).loopSet i = x := by simp [State.loopSet]

theorem State.loopSet_setLoopSet_ne (s : State) {i j : Fin 4} (h : j ≠ i) (x : LoopSet) :
    (s.setLoopSet i x).loopSet j = s.loopSet j := by
  have : i.val ≠ j.val := fun e => h (Fin.ext e.symm)
  simp [State.loopSet, this]

/-- The machine's parameters are within the spec's bounds (00_scope.md R7). -/
theorem Config.params_lawful : Config.params.lawful = true := by
  unfold Config.params
  split
  · assumption
  · decide

end Sys2Proof.Machine
end

