-- ==== Sys2Proof/Laws/Turn.lean ====
section
/-! SUPPORT. What a turn and a step can do, said once. -/

namespace Sys2Proof.Machine

/-- In an admitted program each line is admitted and ends in program memory. -/
theorem programDefect_none {p : Params} {pm : List (Nat × Placed)} (h : programDefect p pm = none) :
    ∀ e ∈ pm, e.2.defect = none ∧ Params.inProgramMemory p (e.1 + e.2.size - 1) = true := by
  induction pm with
  | nil => nofun
  | cons f rest ih =>
    obtain ⟨a, l⟩ := f
    simp only [programDefect] at h
    split at h
    · cases h
    next hd =>
    split at h
    · cases h
    next hm =>
    intro e he
    rcases List.mem_cons.1 he with rfl | he
    · exact ⟨hd, by simpa using hm⟩
    · cases rest with
      | nil => cases he
      | cons g rest =>
        simp only at h
        split at h
        · exact ih h e he
        · cases h

/-- A line of a size R84 admits takes at least one unit. -/
theorem Placed.size_pos {l : Placed} (h : l.defect = none) : 0 < l.size := by
  unfold Placed.defect at h
  split at h
  · cases h
  · by_cases hs : l.line.sizeAdmitted l.size = true
    · unfold Line.sizeAdmitted at hs
      split at hs <;> simp at hs <;> omega
    · simp [hs] at h

/-- Loading a program answers exactly where it is admitted, and then sets program memory alone. -/
theorem State.loadProgram_next {s t : State} {pm : List (Nat × Placed)} :
    s.loadProgram pm = .next t ↔ programDefect s.par pm = none ∧ t = { s with pm := pm } := by
  unfold State.loadProgram
  cases h : programDefect s.par pm with
  | none => simp [eq_comm]
  | some d => simp

/-- The address `sint` saves is `next(a)` or lies inside the line. -/
theorem State.sintReturn_cases (s : State) :
    s.sintReturn = s.npc ∨ ∃ k, s.par.sintReturn = .itsNop k ∧ s.pc + k < s.npc ∧ s.sintReturn = s.pc + k := by
  unfold State.sintReturn
  cases h : s.par.sintReturn with
  | lineAfter => exact .inl rfl
  | itsNop k =>
    by_cases hk : s.pc + k < s.npc
    · exact .inr ⟨k, rfl, hk, if_pos hk⟩
    · exact .inl (if_neg hk)

/-- A PC executes the line that starts there or, after a return, the `nop` inside a line that `sint` stands in. -/
theorem State.operationAt_some {s : State} {a : Nat} {p : Placed} (h : s.operationAt a = some p) :
    s.lineAt a = some p ∨ s.returned = true ∧ ∃ k v size, s.par.sintReturn = .itsNop k ∧ k ≤ a ∧ k < size ∧
      s.lineAt (a - k) = some ⟨⟨.sint v, some .nop⟩, size⟩ ∧ p = ⟨⟨.nop, none⟩, size - k⟩ := by
  unfold State.operationAt at h
  cases hl : s.lineAt a with
  | some q =>
    rw [hl] at h
    exact .inl h
  | none =>
    rw [hl] at h
    simp only [Option.none_or] at h
    split at h
    case isFalse => cases h
    next hret =>
    unfold State.nopBeside at h
    split at h
    · cases h
    next k hk =>
    split at h
    · next v size hs =>
      split at h
      · next hb => exact .inr ⟨hret, k, v, size, hk, hb.1, hb.2, hs, (Option.some.inj h).symm⟩
      · cases h
    · cases h

/-- Except right after a return, a PC executes nothing but lines. -/
theorem State.operationAt_of_not_returned {s : State} (h : s.returned = false) (a : Nat) :
    s.operationAt a = s.lineAt a := by simp [State.operationAt, h]

/-- A step of the core at PC goes on exactly in an admitted program, with the operation PC is at. -/
theorem State.atLine_of {s : State} {p : Placed} (hp : programDefect s.par s.pm = none)
    (ho : s.operationAt s.pc = some p) (k : Placed → Turn) : s.atLine k = k p := by
  simp [State.atLine, hp, ho]

/-- What such a step can be: what `k` makes of the operation at PC, or a stop. -/
theorem State.atLine_cases (s : State) (k : Placed → Turn) :
    (∃ p, programDefect s.par s.pm = none ∧ s.operationAt s.pc = some p ∧ s.atLine k = k p) ∨
    (∃ d, programDefect s.par s.pm = some d ∧ s.atLine k = .done (.refused (.notAdmitted d))) ∨
    (programDefect s.par s.pm = none ∧ s.operationAt s.pc = none ∧
      s.atLine k = .done (.fault .fetchOutsideProgram)) := by
  unfold State.atLine
  cases hp : programDefect s.par s.pm with
  | some d => exact .inr (.inl ⟨d, rfl, rfl⟩)
  | none =>
    cases ho : s.operationAt s.pc with
    | none => exact .inr (.inr ⟨rfl, rfl, rfl⟩)
    | some p => exact .inl ⟨p, rfl, rfl, rfl⟩

/-- Everything a fetch needs to hand an instruction on, and the state it hands it on in. -/
theorem State.fetch_execute {s t : State} {i : Instr} :
    s.fetch = .execute i t ↔ programDefect s.par s.pm = none ∧ ∃ p, s.operationAt s.pc = some p ∧
      p.line.op = some i ∧ (Instr.usesNext i = true → (s.lineAt (s.pc + p.size)).isSome = true) ∧
      t = s.setNext (s.pc + p.size) := by
  unfold State.fetch
  rcases s.atLine_cases _ with ⟨p, hp, ho, h⟩ | ⟨d, hp, h⟩ | ⟨hp, ho, h⟩ <;> rw [h]
  · simp only [hp, true_and, ho, Option.some.injEq, exists_eq_left']
    cases hi : p.line.op with
    | none => simp
    | some j =>
      cases hu : Instr.usesNext j <;> cases s.lineAt (s.pc + p.size) <;> simp [hu]
      all_goals
        rintro rfl
        simp [hu, eq_comm]
  · simp [hp]
  · simp [ho]

/-- A fetch never answers a next state by itself. -/
theorem State.fetch_done {s t : State} : s.fetch ≠ .done (.next t) := by
  unfold State.fetch
  rcases s.atLine_cases _ with ⟨p, -, -, h⟩ | ⟨d, -, h⟩ | ⟨-, -, h⟩ <;> rw [h]
  · intro h
    split at h
    · cases h
    · split at h <;> cases h
  · nofun
  · nofun

/-- An acceptance answers a next state in two ways: the request is taken, in an admitted program with PC at a line, or
the rules do not allow it and nothing happens. -/
theorem State.acceptTurn_next {s t : State} {k : Fin 15} :
    s.acceptTurn k = .done (.next t) ↔
      (s.mayAccept k = true ∧ programDefect s.par s.pm = none ∧ (s.operationAt s.pc).isSome = true ∧
        t = s.acceptInterrupt k) ∨
      (s.mayAccept k = false ∧ t = s) := by
  unfold State.acceptTurn
  cases hm : s.mayAccept k
  · simp only [Bool.false_eq_true, if_false, false_and, false_or, true_and, Turn.done.injEq, Host.Outcome.next.injEq]
    exact eq_comm
  · simp only [if_true, Bool.true_eq_false, false_and, or_false, true_and]
    rcases s.atLine_cases _ with ⟨p, hp, ho, h⟩ | ⟨d, hp, h⟩ | ⟨hp, ho, h⟩ <;> rw [h]
    · simp only [hp, ho, Option.isSome_some, true_and, Turn.done.injEq, Host.Outcome.next.injEq]
      exact eq_comm
    · simp [hp]
    · simp [ho]

/-- An acceptance executes no instruction. -/
theorem State.acceptTurn_execute {s u : State} {k : Fin 15} {i : Instr} : s.acceptTurn k ≠ .execute i u := by
  unfold State.acceptTurn
  split
  · rcases s.atLine_cases _ with ⟨p, -, -, h⟩ | ⟨d, -, h⟩ | ⟨-, -, h⟩ <;> rw [h] <;> nofun
  · nofun

/-- A step answers a next state because its turn executed an instruction that did, or because its turn did. -/
theorem step_next {s t : State} :
    step s = .next t ↔ (∃ i u, s.turn = .execute i u ∧ exec i u = .next t) ∨ s.turn = .done (.next t) := by
  unfold step
  cases h : s.turn with
  | execute i u => simp
  | done r => simp

/-- An address of program memory is below 2^PCW (00_scope.md R7: PCW is at least 5). -/
theorem Params.inProgramMemory_iff {p : Params} (h : p.lawful = true) {a : Nat} :
    Params.inProgramMemory p a = true ↔ a < 2 ^ p.pcw := by
  have h5 : 5 ≤ p.pcw := by
    simp only [Params.lawful, Bool.and_eq_true, decide_eq_true_eq] at h
    exact h.1.1.1.1
  have : 2 ^ 5 ≤ 2 ^ p.pcw := Nat.pow_le_pow_right (by decide) h5
  simp only [Params.inProgramMemory, Bool.or_eq_true, decide_eq_true_eq]
  omega

/-- The next step's move is the agenda's first. -/
theorem State.turn_cons {s : State} {m : Move} {rest : List Move} (h : s.agenda = m :: rest) :
    s.turn = (s.startTurn rest).perform m := by simp [State.turn, h]

/-- With no move left the core makes its own. -/
theorem State.turn_nil {s : State} (h : s.agenda = []) : s.turn = (s.startTurn []).perform s.ownMove := by
  simp [State.turn, h]

/-- Every step makes some move, on the state the step began in. -/
theorem State.turn_cases (s : State) : ∃ m rest, s.turn = (s.startTurn rest).perform m ∧
    (s.agenda = m :: rest ∨ s.agenda = [] ∧ rest = [] ∧ m = s.ownMove) := by
  cases h : s.agenda with
  | nil => exact ⟨s.ownMove, [], State.turn_nil h, .inr ⟨rfl, rfl, rfl⟩⟩
  | cons m rest => exact ⟨m, rest, State.turn_cons h, .inl rfl⟩

/-- While the core runs there is nothing to hold. -/
theorem State.holdWindow_of_running {s : State} (h : s.run = .running) : s.holdWindow = s := by
  simp [State.holdWindow, h]

/-- Holding the window changes the two hidden values alone. -/
theorem State.holdWindow_eq (s : State) :
    s.holdWindow = s ∨ s.holdWindow = { s with iePrev := s.iePrev || s.sr.ie, imskPrev := s.imskPrev ||| s.imsk } := by
  unfold State.holdWindow
  split <;> simp

/-- Only the move `line` executes an instruction, in a running core, at the line it fetches. -/
theorem State.perform_execute {s u : State} {m : Move} {i : Instr} :
    s.perform m = .execute i u ↔ m = .line ∧ s.run = .running ∧ s.passBoundary.fetch = .execute i u := by
  cases m <;> simp only [State.perform, reduceCtorEq, false_and, true_and, State.acceptTurn_execute]
  by_cases h : s.run = .running <;> simp [h]

/-- The next states a move answers without an instruction. -/
theorem State.perform_done {s t : State} {m : Move} (h : s.perform m = .done (.next t)) :
    t = s.holdWindow ∨ (∃ irq r, t = s.holdWindow.driveInputs irq r) ∨ (m = .hardReset ∧ t = s.hardReset) ∨
    (∃ a b, a ≠ .powerDown ∧ b ≠ .powerDown ∧ t = s.holdWindow.runFromTo a b) ∨
    (∃ d, m = .debugWrite d ∧ s.run = .debug ∧ t = s.holdWindow.debugWrite d) ∨
    (∃ k, m = .accept k ∧ s.holdWindow.mayAccept k = true ∧
      programDefect s.par s.pm = none ∧ (s.holdWindow.operationAt s.holdWindow.pc).isSome = true ∧
      t = s.holdWindow.acceptInterrupt k) ∨
    (m = .wake ∧ s.mayWake = true ∧ t = s.holdWindow.setRun .running) := by
  cases m <;> simp only [State.perform, Turn.done.injEq, Host.Outcome.next.injEq] at h
  case drive irq r => exact .inr (.inl ⟨irq, r, h.symm⟩)
  case hardReset => exact .inr (.inr (.inl ⟨rfl, h.symm⟩))
  case debugEnter => exact .inr (.inr (.inr (.inl ⟨.running, .debug, by decide, by decide, h.symm⟩)))
  case debugLeave => exact .inr (.inr (.inr (.inl ⟨.debug, .running, by decide, by decide, h.symm⟩)))
  case waitEnter => exact .inr (.inr (.inr (.inl ⟨.running, .wait, by decide, by decide, h.symm⟩)))
  case waitLeave => exact .inr (.inr (.inr (.inl ⟨.wait, .running, by decide, by decide, h.symm⟩)))
  case debugWrite d =>
    by_cases hr : s.run = .debug
    · rw [if_pos hr] at h
      exact .inr (.inr (.inr (.inr (.inl ⟨d, rfl, hr, h.symm⟩))))
    · rw [if_neg hr] at h
      exact .inl h.symm
  case accept k =>
    obtain ⟨hm, hp, ho, ht⟩ | ⟨-, ht⟩ := State.acceptTurn_next.mp h
    · have hp : programDefect s.par s.pm = none := by simpa using hp
      exact .inr (.inr (.inr (.inr (.inr (.inl ⟨k, rfl, hm, hp, ho, ht⟩)))))
    · exact .inl ht
  case wake =>
    by_cases hw : s.mayWake = true
    · rw [if_pos hw] at h
      exact .inr (.inr (.inr (.inr (.inr (.inr ⟨rfl, hw, h.symm⟩)))))
    · rw [if_neg hw] at h
      exact .inl h.symm
  case line =>
    by_cases hr : s.run = .running
    · rw [if_pos hr] at h
      exact absurd h State.fetch_done
    · rw [if_neg hr] at h
      exact .inl (Host.Outcome.next.inj (Turn.done.inj h)).symm

end Sys2Proof.Machine
end

