-- ==== Sys2Proof/Laws/Exec.lean ====
section
/-! SUPPORT. What each instruction, and a step, can answer as a next state, said once. -/

namespace Sys2Proof.Machine

/-- The vector address of each input. -/
@[simp] theorem vecOfPin_eq (k : Fin 15) : vecOfPin k = 2 * (k.val + 1) := rfl

/-- The operands `sint` is admitted with are the addresses of the vector table's entries (60_exceptions.md R202, R212). -/
theorem sint_defect_iff {v : Nat} : (Instr.sint v).defect = none ↔ ∃ n, v = vecEntry n := by
  have h : (Instr.sint v).defect = none ↔ v % 2 = 0 ∧ v ≤ 30 := by
    unfold Instr.defect
    split <;> simp_all
  rw [h]
  constructor
  · rintro ⟨h2, h30⟩
    exact ⟨⟨v / 2, by omega⟩, by simp only [vecEntry, Config.vecStride]; omega⟩
  · rintro ⟨n, rfl⟩
    simp only [vecEntry, Config.vecStride]
    omega

/-- The acknowledge events of a set of outputs are those of its members, each once. -/
theorem mem_ackEvents {m : IrqLines} {e : Event} : e ∈ ackEvents m ↔ ∃ k : Fin 15, m.getLsbD k = true ∧ e = .iack k := by
  simp only [ackEvents, List.mem_map, List.mem_filter, List.mem_finRange, true_and]
  exact exists_congr fun k => and_congr_right fun _ => eq_comm

theorem nodup_ackEvents (m : IrqLines) : (ackEvents m).Nodup :=
  ((List.nodup_finRange 15).filter _).map fun _ _ h => Event.iack.inj h

/-- What `sint` pulses: nothing where the implementation gives no acknowledge, else some outputs of which nothing is
known, drawn as a free value. -/
theorem State.sintAck_cases (s : State) (v : Nat) :
    s.par.sintPulsesIack = false ∧ s.sintAck v = s ∨
    s.par.sintPulsesIack = true ∧ ∃ m, s.sintAck v = s.draw.2.pulseAcks m := by
  unfold State.sintAck
  cases h : s.par.sintPulsesIack
  · exact .inl ⟨rfl, rfl⟩
  · exact .inr ⟨rfl, _, rfl⟩

/-- The registers a software interrupt writes: the pc alone, for interrupt 0 of an implementation that does so, or those
of the whole entry. -/
theorem State.softwareEntry_cases (s : State) (v : Nat) :
    s.softwareEntry v = { s with pc := 0 } ∨ s.softwareEntry v = s.takeInterrupt s.sintReturn v := by
  unfold State.softwareEntry
  split
  · exact .inl rfl
  · exact .inr rfl

/-- A software interrupt is its entry, and then, where the implementation gives acknowledges, some outputs pulsed. -/
theorem State.softwareInterrupt_cases (s : State) (v : Nat) :
    s.softwareInterrupt v = s.softwareEntry v ∨
    s.par.sintPulsesIack = true ∧ ∃ m, s.softwareInterrupt v = (s.softwareEntry v).draw.2.pulseAcks m := by
  have hp : (s.softwareEntry v).par = s.par := by
    obtain h | h := s.softwareEntry_cases v <;> simp [h]
  obtain ⟨-, h⟩ | ⟨ht, m, h⟩ := (s.softwareEntry v).sintAck_cases v
  · exact .inl h
  · exact .inr ⟨hp ▸ ht, m, h⟩

/-- Where `sint` takes the whole entry: everywhere but on interrupt 0 of an implementation that writes the pc alone. -/
theorem State.softwareEntry_of_ne {s : State} {v : Nat} (h : v ≠ 0 ∨ s.par.irq0FullEntry = true) :
    s.softwareEntry v = s.takeInterrupt s.sintReturn v := by
  unfold State.softwareEntry
  rw [if_neg]
  rintro ⟨h0, h1⟩
  rcases h with h | h
  · exact h h0
  · rw [h1] at h
    cases h

/-- The slot `sp[o]` can be read, and holds `w`. -/
def SlotReads (s : State) (o : Nat) (w : Word) : Prop :=
  Params.slotAdmitted s.par (s.slotAddr o) = true ∧
    Memory.readSlot s.par.bigEndian s.mem (s.slotAddr o) = some w

/-- The next state of each instruction. -/
def ExecAnswers (i : Instr) (s t : State) : Prop :=
  match i with
  | .jp T => Params.inProgramMemory s.par T = true ∧ t = { s with pc := T }
  | .sint v => v % 2 = 0 ∧ v ≤ 30 ∧ t = s.softwareInterrupt v
  | .nop => t = s.advance
  | .reti => t = s.returnFromInterrupt
  | .ieSet u => u ≤ 1 ∧ t = (s.setIe (u == 1)).advance
  | .imskSet m => m ≤ 0x7FFF ∧ t = (s.setImsk (BitVec.ofNat 15 m)).advance
  | .setInterruptMask r => t = (s.setImsk ((s.reg r).setWidth 15)).advance
  | .getInterruptMask r => t = (s.setReg r (s.imsk.setWidth 32)).advance
  | .getIrqStat r => t = (s.setReg r (s.irqStat.setWidth 32)).advance
  | .spAdd n => t = { s.advance with sp := s.spPlus n }
  | .stLcp o | .stLc o | .stLstk o | .stLpa o | .stSr o | .stIlr o =>
    o % 4 = 0 ∧ Params.slotAdmitted s.par (s.slotAddr o) = true ∧
      ∃ w, t = s.draw.2.advance.putSlot (s.slotAddr o) w
  | .ldLcp o => o % 4 = 0 ∧ ∃ w, ∃ h : (unpack s.par.lcpW w).toNat < 5, SlotReads s o w ∧
      t = { s.advance with lcp := ⟨(unpack s.par.lcpW w).toNat, h⟩ }
  | .ldLc o => o % 4 = 0 ∧ ∃ i w, s.lcp.val = Fin.val (n := 4) i ∧ SlotReads s o w ∧
      t = (s.setLoopSet i { s.loopSet i with lc := unpack s.par.lcW w }).advance
  | .ldLstk o => o % 4 = 0 ∧ ∃ i w, s.lcp.val = Fin.val (n := 4) i ∧ SlotReads s o w ∧
      t = (s.setLoopSet i { s.loopSet i with lstk := unpack s.par.lstkW w }).advance
  | .ldLpa o => o % 4 = 0 ∧ ∃ i w, s.lcp.val = Fin.val (n := 4) i ∧ SlotReads s o w ∧
      t = (s.setLoopSet i { s.loopSet i with lpa := unpack s.par.lpaW w }).advance
  | .ldSr o => o % 4 = 0 ∧ ∃ w, SlotReads s o w ∧
      t = { s.advance with sr := .ofImage s.par.srLayout (unpack s.par.srLayout.length w) }
  | .ldIlr o => o % 4 = 0 ∧ ∃ w, SlotReads s o w ∧ t = { s.advance with ilr := (unpack s.par.pcw w).toNat }
  | .lcpSet i => i ≤ 4 ∧ t = { s.advance with lcp := Fin.ofNat 5 i }
  | .powerdown => t = s.advance.setRun .powerDown

/-- Everything an instruction can answer as a next state (of a store: all but the word it writes, for which
`State.storeAt_next` stands). -/
theorem exec_next {i : Instr} {s t : State} (h : exec i s = .next t) : ExecAnswers i s t := by
  have guard : ∀ {P : Prop} [Decidable P] {d : Defect}, (if P then none else some d) = none → P := by
    intro P _ d h
    by_cases hp : P
    · exact hp
    · simp [hp] at h
  cases i <;> simp only [exec, execJp, execSint, execNop, execReti, execIeSet, execImskSet, execSetInterruptMask,
    execGetInterruptMask, execGetIrqStat, execSpAdd, execStLcp, execStLc, execStLstk, execStLpa, execStSr, execStIlr,
    execLdLcp, execLdLc, execLdLstk, execLdLpa, execLdSr, execLdIlr, execLcpSet, execPowerdown, ifAdmitted_next,
    Instr.defect, State.storeAt_next, State.loadAt_next, State.withWindow_next, Host.Outcome.next.injEq] at h
  case jp T =>
    split at h
    · next hT => exact ⟨hT, (Host.Outcome.next.inj h).symm⟩
    · cases h
  case sint v => exact ⟨(guard h.1).1, (guard h.1).2, h.2.symm⟩
  case ldLcp o =>
    obtain ⟨hd, w, ha, hr, hh⟩ := h
    split at hh
    · next hw => exact ⟨guard hd, w, hw, ⟨ha, hr⟩, (Host.Outcome.next.inj hh).symm⟩
    · cases hh
  case ldLc o | ldLstk o | ldLpa o =>
    obtain ⟨hd, i, hi, w, ha, hr, rfl⟩ := h
    exact ⟨guard hd, i, w, hi, ⟨ha, hr⟩, rfl⟩
  case ldSr o | ldIlr o =>
    obtain ⟨hd, w, ha, hr, rfl⟩ := h
    exact ⟨guard hd, w, ⟨ha, hr⟩, rfl⟩
  case stLcp o | stSr o | stIlr o =>
    obtain ⟨hd, ha, rfl⟩ := h
    exact ⟨guard hd, ha, _, rfl⟩
  case stLc o | stLstk o | stLpa o =>
    obtain ⟨hd, i, -, ha, rfl⟩ := h
    exact ⟨guard hd, ha, _, rfl⟩
  case ieSet u | imskSet m | lcpSet i => exact ⟨guard h.1, h.2.symm⟩
  all_goals exact h.symm

/-- Only `reti` says that PC is where a return went. -/
theorem exec_returned {i : Instr} {s t : State} (h : exec i s = .next t) (hs : s.returned = false) (hi : i ≠ .reti) :
    t.returned = false := by
  replace h := exec_next h
  cases i <;> simp only [ExecAnswers] at h
  case reti => exact absurd rfl hi
  case sint v =>
    obtain ⟨-, -, rfl⟩ := h
    have he : (s.softwareEntry v).returned = false := by
      obtain h | h := s.softwareEntry_cases v <;> rw [h]
      · exact hs
      · rfl
    obtain h | ⟨-, m, h⟩ := s.softwareInterrupt_cases v <;> rw [h]
    · exact he
    · exact he
  case ldLcp o => obtain ⟨-, w, hw, -, rfl⟩ := h; exact hs
  case ldLc o | ldLstk o | ldLpa o => obtain ⟨-, i, w, -, -, rfl⟩ := h; exact hs
  case ldSr o | ldIlr o => obtain ⟨-, w, -, rfl⟩ := h; exact hs
  case stLcp o | stLc o | stLstk o | stLpa o | stSr o | stIlr o => obtain ⟨-, -, w, rfl⟩ := h; exact hs
  case jp T | ieSet u | imskSet m | lcpSet i => obtain ⟨-, rfl⟩ := h; exact hs
  all_goals
    subst h
    exact hs

/-- A step that answers a next state executed the line at PC, or made a move without an instruction. -/
theorem step_cases {s t : State} (h : step s = .next t) :
    ∃ m rest, (s.agenda = m :: rest ∨ s.agenda = [] ∧ rest = [] ∧ m = s.ownMove) ∧
      ((∃ i p, m = .line ∧ s.run = .running ∧ programDefect s.par s.pm = none ∧ s.operationAt s.pc = some p ∧
          p.line.op = some i ∧ (Instr.usesNext i = true → (s.lineAt (s.pc + p.size)).isSome = true) ∧
          exec i ((s.startTurn rest).passBoundary.setNext (s.pc + p.size)) = .next t) ∨
        (s.startTurn rest).perform m = .done (.next t)) := by
  obtain ⟨m, rest, ht, ha⟩ := State.turn_cases s
  refine ⟨m, rest, ha, ?_⟩
  rcases step_next.1 h with ⟨i, u, hu, he⟩ | h
  · rw [ht, State.perform_execute] at hu
    obtain ⟨rfl, hr, hf⟩ := hu
    obtain ⟨hp, p, hl, ho, hn, rfl⟩ := State.fetch_execute.1 hf
    exact .inl ⟨i, p, rfl, hr, hp, hl, ho, hn, he⟩
  · exact .inr (ht ▸ h)

end Sys2Proof.Machine
end

