-- ==== Sys2Proof/Laws/PerInstr.lean ====
section
/-! SUPPORT. Statements made once for each instruction. -/

/-- ParsesBack: the tokens an instruction is written with read back as that instruction, with every operand
(30_encoding.md R92). -/
def Sys2Proof.Laws.ParsesBack.Statement (i : Sys2Proof.Instr) : Prop := Sys2Proof.parseOp [] i.tokens = .op i

namespace Sys2Proof.Laws.ParsesBack

open Sys2Proof

theorem jp (t : Nat) : Statement (.jp t) := rfl
theorem sint (v : Nat) : Statement (.sint v) := rfl
theorem nop : Statement .nop := rfl
theorem reti : Statement .reti := rfl
theorem ieSet (u : Nat) : Statement (.ieSet u) := rfl
theorem imskSet (m : Nat) : Statement (.imskSet m) := rfl
theorem setInterruptMask (r : Nat) : Statement (.setInterruptMask r) := rfl
theorem getInterruptMask (r : Nat) : Statement (.getInterruptMask r) := rfl
theorem getIrqStat (r : Nat) : Statement (.getIrqStat r) := rfl

theorem spAdd (n : Int) : Statement (.spAdd n) := by
  by_cases h : n < 0
  · simp only [Statement, Instr.tokens, if_pos h, parseOp, ParsedOp.op.injEq, Instr.spAdd.injEq]
    omega
  · simp only [Statement, Instr.tokens, if_neg h, parseOp, ParsedOp.op.injEq, Instr.spAdd.injEq]
    omega

theorem stLcp (o : Nat) : Statement (.stLcp o) := rfl
theorem stLc (o : Nat) : Statement (.stLc o) := rfl
theorem stLstk (o : Nat) : Statement (.stLstk o) := rfl
theorem stLpa (o : Nat) : Statement (.stLpa o) := rfl
theorem stSr (o : Nat) : Statement (.stSr o) := rfl
theorem stIlr (o : Nat) : Statement (.stIlr o) := rfl
theorem ldLcp (o : Nat) : Statement (.ldLcp o) := rfl
theorem ldLc (o : Nat) : Statement (.ldLc o) := rfl
theorem ldLstk (o : Nat) : Statement (.ldLstk o) := rfl
theorem ldLpa (o : Nat) : Statement (.ldLpa o) := rfl
theorem ldSr (o : Nat) : Statement (.ldSr o) := rfl
theorem ldIlr (o : Nat) : Statement (.ldIlr o) := rfl
theorem lcpSet (i : Nat) : Statement (.lcpSet i) := rfl
theorem powerdown : Statement .powerdown := rfl

end Sys2Proof.Laws.ParsesBack
end

