-- ==== Sys2Proof/Tests/Slice0.lean ====
section
/-! SUPPORT. The model's own tests. Expected results come from spec/95_test_vectors.md, whose row each test names
(V2.1/4 is row 4 of its section 2.1), or from the rule named; then the witnesses of the statements' hypotheses. -/

namespace Sys2Proof.Tests

open Machine Claims

/-- A text as bytes. -/
def txt (s : String) : List Byte := bytesOf s.toList

/-! ## Ill-formed terms are refused, one for each check (30_encoding.md R82, R84, R93) -/

theorem test_wf_sint_odd : (Line.defect ⟨.sint 3, some .nop⟩) = some .sintOperandNotVectorAddress := by decide
theorem test_wf_sint_above_30 : (Line.defect ⟨.sint 32, some .nop⟩) = some .sintOperandNotVectorAddress := by decide
theorem test_wf_ie_two : Instr.defect (.ieSet 2) = some .ieOperandNotBit := by decide
theorem test_wf_imsk_too_wide : Instr.defect (.imskSet 0x8000) = some .imskOperandTooWide := by decide
theorem test_wf_lcp_five : Instr.defect (.lcpSet 5) = some .lcpOperandAboveFour := by decide
theorem test_wf_offset_two : Instr.defect (.stLcp 2) = some .offsetNotMultipleOfFour := by decide
theorem test_wf_two_operations : (Line.defect ⟨.ieSet 1, some (.lcpSet 4)⟩) = some .twoOperationLine := by decide
theorem test_wf_bare_sint : (Line.defect ⟨.sint 4, none⟩) = some .bareSint := by decide
theorem test_wf_nop_before_sint : (Line.defect ⟨.nop, some (.sint 4)⟩) = some .bareSint := by decide
theorem test_wf_bare_reti : (Line.defect ⟨.reti, none⟩) = some .bareReti := by decide
theorem test_wf_size_zero : Placed.defect ⟨⟨.nop, none⟩, 0⟩ = some .sizeNotAdmitted := by decide
theorem test_wf_jp_size_three : Placed.defect ⟨⟨.jp 64, none⟩, 3⟩ = some .sizeNotAdmitted := by decide
theorem test_wf_vector_lines :
    Placed.defect ⟨⟨.jp 512, none⟩, 2⟩ = none ∧ Placed.defect ⟨⟨.reti, some .nop⟩, 2⟩ = none := by decide

/-- A text the spec refuses is turned away by the defect's name. -/
theorem test_wf_admit : admitText (txt "sint 3; nop") = .refused .sintOperandNotVectorAddress ∧
    admitText (txt "reti") = .refused .bareReti ∧ admitText (txt "lc = 4") = .rejected .unknownForm := by decide

/-! ## Decoding: every constructor from a text written out from the spec's form of it -/

theorem test_decode_jp : decode (txt "jp 512") = .line ⟨.jp 512, none⟩ := by decide
theorem test_decode_jp_symbol :
    decodeWith [("isr2".toList, 4660)] (txt "jp isr2           //  4 - interrupt 2") = .line ⟨.jp 4660, none⟩ := by
  decide
theorem test_decode_sint : decode (txt "sint 4; nop /*software interrupt */") = .line ⟨.sint 4, some .nop⟩ := by decide
theorem test_decode_nop : decode (txt "        nop") = .line ⟨.nop, none⟩ := by decide
theorem test_decode_reti : decode (txt "reti ; nop        //  2 - interrupt 1") = .line ⟨.reti, some .nop⟩ := by decide
/-- Three rows of the source are printed with `:` (90_conflicts.md C4). -/
theorem test_decode_reti_colon : decode (txt "reti : nop") = .line ⟨.reti, some .nop⟩ := by decide
theorem test_decode_ie : decode (txt "ie = 1") = .line ⟨.ieSet 1, none⟩ := by decide
theorem test_decode_imsk : decode (txt "imsk = 0x7FFD ; nop") = .line ⟨.imskSet 0x7FFD, some .nop⟩ := by decide
theorem test_decode_set_mask : decode (txt "imsk = <5>") = .line ⟨.setInterruptMask 5, none⟩ := by decide
theorem test_decode_get_mask : decode (txt "<5> = imsk") = .line ⟨.getInterruptMask 5, none⟩ := by decide
theorem test_decode_get_stat : decode (txt "<12> = irq_stat") = .line ⟨.getIrqStat 12, none⟩ := by decide
theorem test_decode_sp_down : decode (txt "nop; sp += -8") = .line ⟨.nop, some (.spAdd (-8))⟩ := by decide
theorem test_decode_sp_up : decode (txt "sp += 56") = .line ⟨.spAdd 56, none⟩ := by decide
theorem test_decode_st_lcp : decode (txt "sp[0] = lcp") = .line ⟨.stLcp 0, none⟩ := by decide
/-- As printed, with a capital I for the l (90_conflicts.md C4). -/
theorem test_decode_st_lc : decode (txt "sp[4] = Ic") = .line ⟨.stLc 4, none⟩ := by decide
theorem test_decode_st_lstk : decode (txt "sp[8] = lstk") = .line ⟨.stLstk 8, none⟩ := by decide
theorem test_decode_st_lpa : decode (txt "sp[12] = lpa") = .line ⟨.stLpa 12, none⟩ := by decide
theorem test_decode_st_sr : decode (txt "nop; sp[0] = sr") = .line ⟨.nop, some (.stSr 0)⟩ := by decide
theorem test_decode_st_ilr : decode (txt "sp[4] = ilr") = .line ⟨.stIlr 4, none⟩ := by decide
theorem test_decode_ld_lcp : decode (txt "lcp = sp[0]") = .line ⟨.ldLcp 0, none⟩ := by decide
theorem test_decode_ld_lc : decode (txt "lc = sp[40]") = .line ⟨.ldLc 40, none⟩ := by decide
theorem test_decode_ld_lstk : decode (txt "lstk = sp[44]") = .line ⟨.ldLstk 44, none⟩ := by decide
theorem test_decode_ld_lpa : decode (txt "lpa = sp[48]") = .line ⟨.ldLpa 48, none⟩ := by decide
theorem test_decode_ld_sr : decode (txt "sr = sp[0]") = .line ⟨.ldSr 0, none⟩ := by decide
theorem test_decode_ld_ilr : decode (txt "ilr = sp[4]") = .line ⟨.ldIlr 4, none⟩ := by decide
theorem test_decode_lcp_imm : decode (txt "lcp = 4") = .line ⟨.lcpSet 4, none⟩ := by decide
theorem test_decode_powerdown : decode (txt "powerdown ; nop") = .line ⟨.powerdown, some .nop⟩ := by decide

theorem test_reject_form : decode (txt "lc = 4") = .rejected .unknownForm := by decide
theorem test_reject_symbol : decode (txt "jp isr2") = .rejected .unknownSymbol := by decide
theorem test_reject_three : decode (txt "nop ; nop ; nop") = .rejected .moreThanTwoOperations := by decide
theorem test_reject_text : decode (txt "sp + 8") = .rejected .unreadableText := by decide
theorem test_encode_store : encode (.stLpa 48) = txt "sp[48] = lpa" := by decide
theorem test_encode_sint : encode (.sint 30) = txt "sint 30 ; nop" := by decide
/-- `n`, `o`, `p` as the three bytes of a word, the first lowest. -/
theorem test_table_word : decodeTableWord 24 0x706f6e = some .nop := by decide

/-! ## A small machine -/

/-- Parameters every register of which is 32 bits wide, with SR laid out lowest bit first. -/
def testParams : Params where
  pcw := 32
  aw := 32
  lcpW := 32
  lcW := 32
  lstkW := 32
  lpaW := 32
  srLayout := [.ie, .v, .n, .z, .ie0, .other 0, .other0 0] ++ List.map .rest ((List.finRange 32).take 25)
  irq0FullEntry := true
  sintReturn := .lineAfter
  sintPulsesIack := false
  wakeNeedsEnable := true
  bigEndian := false
  stackLo := 0x800
  stackHi := 0x1000

/-- The machine right after reset, with `testParams`. -/
def fresh : State := State.launch testParams

/-- What `f` reads in the next state, if there is one. -/
def after {α : Type} (r : Result) (f : State → α) : Option α :=
  match r with
  | .next t => some (f t)
  | .fault _ | .refused _ => none

/-- `s` at address `a`, where line `l` of `size` units stands and a `nop` after it, about to execute it. -/
def atLine (a : Nat) (l : Line) (size : Nat) (s : State) : State :=
  { s with pc := a, pm := [(a, ⟨l, size⟩), (a + size, ⟨⟨.nop, none⟩, 1⟩)], agenda := [.line] }

/-- `s` at 0x200, where the line of `i` stands, two units long. -/
def before (i : Instr) (s : State) : State := atLine 0x200 i.line 2 s

/-- `s` with `w` in the slot at `a`. -/
def withSlot (a : Nat) (w : Word) (s : State) : State :=
  { s with mem := Memory.writeSlot s.par.bigEndian s.mem a w }

/-- The slot at `a`. -/
def slotOf (a : Nat) (s : State) : Option Word := Memory.readSlot s.par.bigEndian s.mem a

/-- The loop registers of the envelope example, with LCP = `i`. -/
def looping (i : Fin 5) : State :=
  { fresh with
    lcp := i
    loops := #v[⟨10, 0x100, 0x108⟩, ⟨11, 0x110, 0x118⟩, ⟨12, 0x120, 0x128⟩, ⟨13, 0x130, 0x138⟩] }

theorem test_params_lawful : testParams.lawful = true := by decide

/-! ## Programs (30_encoding.md R93) -/

/-- One that is admitted; two lines that overlap; a line that ends outside program memory; a bare `reti`. -/
theorem test_program_defects :
    programDefect { testParams with pcw := 5 } [(0, ⟨⟨.jp 30, none⟩, 2⟩), (30, ⟨⟨.reti, some .nop⟩, 2⟩)] = none ∧
    programDefect testParams [(0, ⟨⟨.jp 64, none⟩, 2⟩), (1, ⟨⟨.nop, none⟩, 1⟩)] = some .overlappingLines ∧
    programDefect { testParams with pcw := 5 } [(30, ⟨⟨.nop, none⟩, 3⟩)] = some .outsideProgramMemory ∧
    programDefect testParams [(0, ⟨⟨.nop, none⟩, 1⟩), (8, ⟨⟨.reti, none⟩, 2⟩)] = some .bareReti := by decide

/-- A line that is not reached keeps the program from running. -/
theorem test_unreached_defect : step { fresh with
    pm := [(0, ⟨⟨.nop, none⟩, 1⟩), (1, ⟨⟨.nop, none⟩, 1⟩), (8, ⟨⟨.reti, none⟩, 2⟩)] } =
    .refused (.notAdmitted .bareReti) := by rfl

/-! ## sint and reti (V2.1) -/

/-- V2.1/1; V2.1/2, taken though IE = 0, the backup then holds 0; U24, the address of the line's own `nop`. -/
theorem test_sint :
    after (step (before (.sint 4) { fresh with ilr := 0x40, sr := { fresh.sr with ie := true } }))
      (fun t => (t.pc, t.ilr, t.sr.ie, t.sr.ie0, t.imsk)) = some (4, 0x202, false, true, 0x7FFF) ∧
    after (step (before (.sint 30) { fresh with sr := { fresh.sr with ie0 := true } }))
      (fun t => (t.pc, t.ilr, t.sr.ie, t.sr.ie0)) = some (30, 0x202, false, false) ∧
    after (step (before (.sint 4) { fresh with par := { testParams with sintReturn := .itsNop 1 } })) (·.ilr) =
      some 0x201 := by decide

/-- R100, D14: the entry is the same where acknowledge outputs are pulsed, and then a free value is drawn; for `sint 0`
too. -/
theorem test_sint_acknowledges : ∀ v ∈ [0, 4],
    after (step (before (.sint v) { fresh with par := { testParams with sintPulsesIack := true } }))
      (fun t => (t.pc, t.ilr, t.draws)) = some (v, 0x202, 1) := by decide

/-- V2.1/7. -/
theorem test_reti_restores :
    after (step (before .reti
        { fresh with ilr := 0x120, sr := { fresh.sr with ie0 := true, other0 := 1 } }))
      (fun t => (t.pc, t.sr.ie, t.sr.srmeOther, t.ilr, t.sr.ie0, t.sr.other0)) =
      some (0x120, true, 1, 0x120, true, 1) := by decide

/-- V2.1/9: IE falls, and the boundary after is still open. -/
theorem test_reti_window :
    after (step (before .reti { fresh with ilr := 0x120, sr := { fresh.sr with ie := true } }))
      (fun t => (t.pc, t.sr.ie, t.iePrev)) = some (0x120, false, true) := by decide

/-- `s` at 0x201, inside the line `sint 4 ; nop`, where SintReturn is the address of that `nop`. -/
def insideSint (returned : Bool) : State :=
  { before (.sint 4) { fresh with par := { testParams with sintReturn := .itsNop 1 } } with
    pc := 0x201, returned := returned }

/-- U24, its other reading: where a `reti` has led to the `nop` of the line, it is fetched there. -/
theorem test_fetch_nop_beside_sint : after (step (insideSint true)) (·.pc) = some 0x202 := by decide

/-- V2.2/7, R62: nothing else goes on in the middle of a line. -/
theorem test_inside_a_line : step (insideSint false) = .fault .fetchOutsideProgram := by rfl

/-! ## jp and nop (V2.2) -/

/-- V2.2/1: not a call. -/
theorem test_jp : after (step (atLine 4 ⟨.jp 0x1234, none⟩ 2 { fresh with ilr := 7 })) (fun t => (t.pc, t.ilr)) =
    some (0x1234, 7) := by decide

/-- V2.2/7. -/
theorem test_jp_nowhere :
    step { atLine 4 ⟨.jp 0x1234, none⟩ 2 fresh with pc := 0x1234 } = .fault .fetchOutsideProgram := by rfl

/-- R62: nor is an interrupt accepted there. -/
theorem test_accept_nowhere : step { atLine 4 ⟨.jp 0x1234, none⟩ 2 fresh with
    pc := 0x1234, irqInp := 1, sr := { fresh.sr with ie := true }, agenda := [.accept 0] } =
    .fault .fetchOutsideProgram := by rfl

/-- R20: a line with no line after it, which it needs. -/
theorem test_no_next_line : step { atLine 4 ⟨.nop, none⟩ 2 fresh with pm := [(4, ⟨⟨.nop, none⟩, 2⟩)] } =
    .fault .fetchOutsideProgram := by rfl

/-- V2.2/4, on a line of one unit. -/
theorem test_nop : after (step (atLine 0x200 ⟨.nop, none⟩ 1 fresh)) (·.pc) = some 0x201 := by decide

/-- V2.2/6. -/
theorem test_nop_first : after (step (atLine 0x200 ⟨.nop, some (.spAdd (-8))⟩ 3 { fresh with sp := 0x1000 }))
    (fun t => (t.pc, t.sp)) = some (0x203, 0x0FF8) := by decide

/-! ## ie, imsk, irq_stat (V2.3) -/

/-- V2.3/1. -/
theorem test_ie_set : after (step (before (.ieSet 1) fresh)) (fun t => (t.sr.ie, t.pc)) = some (true, 0x202) := by decide

/-- V2.3/2. -/
theorem test_ie_clear :
    after (step (before (.ieSet 0) { fresh with sr := { fresh.sr with ie := true, ie0 := true } }))
      (fun t => (t.sr.ie, t.sr.ie0, t.iePrev)) = some (false, true, true) := by decide

/-- V2.3/5. -/
theorem test_imsk_clear : after (step (before (.imskSet 0) fresh)) (·.imsk) = some 0 := by decide

/-- V2.3/7. -/
theorem test_imsk_one_masked : after (step (before (.imskSet 0x7FFD) fresh)) (·.imsk) = some 0x7FFD := by decide

/-- V2.3/9. -/
theorem test_set_mask_ignores_high_bits :
    after (step (before (.setInterruptMask 5) (fresh.setReg 5 0xFFFF7FFE))) (·.imsk) = some 0x7FFE := by decide

/-- V2.3/11. -/
theorem test_get_mask :
    after (step (before (.getInterruptMask 5) { fresh with imsk := 0x1234 })) (·.reg 5) = some 0x1234 := by decide

/-- V2.3/12: raw levels, with everything masked and disabled. -/
theorem test_get_stat_raw :
    after (step (before (.getIrqStat 5) { fresh with irqInp := 0x88, imsk := 0 }))
      (fun t => (t.reg 5, t.iackOut, t.history)) = some (0x88, 0, []) := by decide

/-- V2.3/13. -/
theorem test_get_stat_none : after (step (before (.getIrqStat 5) (fresh.setReg 5 9))) (·.reg 5) = some 0 := by decide

/-! ## Stack and loop registers (V2.4) -/

/-- V2.4/1. -/
theorem test_sp_down : after (step (before (.spAdd (-56)) { fresh with sp := 0x1000 })) (·.sp) = some 0x0FC8 := by decide

/-- V2.4/3. -/
theorem test_sp_wraps : after (step (before (.spAdd (-56)) { fresh with sp := 8 })) (·.sp) = some 0xFFFFFFD0 := by decide

/-- V2.4/5. -/
theorem test_st_lcp : after (step (before (.stLcp 0) { looping 2 with sp := 0x0FC8 })) (slotOf 0x0FC8) = some (some 2) := by
  decide

/-- V2.4/6. -/
theorem test_st_lc : after (step (before (.stLc 16) { looping 0 with
    sp := 0x0FC8, lcp := 1, loops := #v[⟨1, 1, 1⟩, ⟨10, 2, 2⟩, ⟨3, 3, 3⟩, ⟨4, 4, 4⟩] })) (slotOf 0x0FD8) =
    some (some 10) := by decide

/-- V2.4/7. -/
theorem test_st_lstk : after (step (before (.stLstk 8) { looping 0 with
    sp := 0x0FC8, loops := #v[⟨1, 0x340, 1⟩, ⟨10, 2, 2⟩, ⟨3, 3, 3⟩, ⟨4, 4, 4⟩] })) (slotOf 0x0FD0) =
    some (some 0x340) := by decide

/-- V2.4/8. -/
theorem test_st_lpa : after (step (before (.stLpa 48) { looping 3 with
    sp := 0x0FC8, loops := #v[⟨1, 1, 1⟩, ⟨10, 2, 2⟩, ⟨3, 3, 3⟩, ⟨4, 4, 0x2A0⟩] })) (slotOf 0x0FF8) =
    some (some 0x2A0) := by decide

/-- V2.4/9. -/
theorem test_st_lc_at_four : step (before (.stLc 4) (looping 4)) = .refused .loopRegisterAccessWithLcp4 := by rfl

/-- V2.4/14, in `testParams`' layout: IE is bit 0, SRME0.IE bit 4. -/
theorem test_st_sr : after (step (before (.stSr 0) { fresh with sp := 0x0FF8, sr := { fresh.sr with ie0 := true } }))
    (slotOf 0x0FF8) = some (some 0x10) := by decide

/-- V2.4/16. -/
theorem test_st_ilr :
    after (step (before (.stIlr 4) { fresh with sp := 0x0FF8, ilr := 0x120 })) (slotOf 0x0FFC) = some (some 0x120) := by
  decide

/-- V2.4/11. -/
theorem test_ld_lcp : after (step (before (.ldLcp 0) (withSlot 0x0FC8 2 { looping 4 with sp := 0x0FC8 }))) (·.lcp) =
    some 2 := by decide

/-- V2.4/12. -/
theorem test_ld_lcp_nine :
    step (before (.ldLcp 0) (withSlot 0x0FC8 9 { looping 4 with sp := 0x0FC8 })) = .fault .lcpOutOfRange := by rfl

/-- V2.4/13. -/
theorem test_ld_lc : after (step (before (.ldLc 40) (withSlot 0x0FF0 7 { looping 3 with sp := 0x0FC8 }))) (·.loops) =
    some #v[⟨10, 0x100, 0x108⟩, ⟨11, 0x110, 0x118⟩, ⟨12, 0x120, 0x128⟩, ⟨7, 0x130, 0x138⟩] := by decide

/-- R139: LSTK of the set LCP selects, and no other. -/
theorem test_ld_lstk : after (step (before (.ldLstk 8) (withSlot 0x0FD0 7 { looping 0 with sp := 0x0FC8 }))) (·.loops) =
    some #v[⟨10, 7, 0x108⟩, ⟨11, 0x110, 0x118⟩, ⟨12, 0x120, 0x128⟩, ⟨13, 0x130, 0x138⟩] := by decide

/-- R140: LPA of the set LCP selects, and no other. -/
theorem test_ld_lpa : after (step (before (.ldLpa 24) (withSlot 0x0FE0 7 { looping 1 with sp := 0x0FC8 }))) (·.loops) =
    some #v[⟨10, 0x100, 0x108⟩, ⟨11, 0x110, 7⟩, ⟨12, 0x120, 0x128⟩, ⟨13, 0x130, 0x138⟩] := by decide

/-- V2.4/15, in `testParams`' layout: V is bit 1, SRME0.IE bit 4. -/
theorem test_ld_sr : after (step (before (.ldSr 0) (withSlot 0x0FF8 0x12
    { fresh with sp := 0x0FF8, sr := { fresh.sr with n := true, z := true } })))
    (fun t => (t.sr.ie, t.sr.ie0, t.sr.v, t.sr.n, t.sr.z)) = some (false, true, true, false, false) := by decide

/-- V2.4/17. -/
theorem test_ld_ilr : after (step (before (.ldIlr 4) (withSlot 0x0FFC 0x120 { fresh with sp := 0x0FF8, ilr := 0x300 })))
    (·.ilr) = some 0x120 := by decide

/-- V2.4/18. -/
theorem test_lcp_imm : after (step (before (.lcpSet 0) (looping 2))) (fun t => (t.lcp, t.loops)) =
    some (0, (looping 2).loops) := by decide

/-- V2.4/20. -/
theorem test_misaligned_sp :
    step (before (.stLcp 0) { looping 2 with sp := 0x0FC9 }) = .refused .unadmittedDataAccess := by rfl

/-- 20_memory.md R64: the slot at 0x0FFC of the envelope's frame is not written (V2.4). -/
theorem test_unwritten_slot :
    step (before (.ldIlr 4) { fresh with sp := 0x0FF8 }) = .fault .readOfUnwrittenState := by rfl

/-! ## powerdown and wake (V2.5) -/

/-- V2.5/1. -/
theorem test_powerdown : after (step (before .powerdown fresh)) (fun t => (t.run, t.pc, t.powerdownOut, t.history)) =
    some (.powerDown, 0x202, true, [.powerdownOut true]) := by decide

/-- V2.5/2: the core alone changes nothing. -/
theorem test_stays_halted : after (step { fresh with run := .powerDown }) (fun t => (t.run, t.pc, t.history)) =
    some (.powerDown, 0, []) := by decide

/-- V2.5/3. -/
theorem test_wake_by_resume :
    after (step { fresh with run := .powerDown, resume := true }) (fun t => (t.run, t.powerdownOut, t.history)) =
      some (.running, false, [.powerdownOut false]) := by decide

/-- V2.5/5, where WAKE_NEEDS_ENABLE holds, and where it does not. -/
theorem test_masked_wake :
    after (step { fresh with run := .powerDown, irqInp := 0x20, imsk := 0, agenda := [.wake] }) (·.run) =
      some .powerDown ∧
    after (step { fresh with
      par := { testParams with wakeNeedsEnable := false }, run := .powerDown, irqInp := 0x20, imsk := 0,
      agenda := [.wake] }) (·.run) = some .running := by decide

/-! ## Acceptance, priority and the window (V2.6) -/

/-- A boundary of V2.6: IE, IE_prev, IMSK, IMSK_prev and the inputs. -/
def boundary (ie iePrev : Bool) (imsk imskPrev irq : IrqLines) : State :=
  { fresh with
    pc := 0x200, pm := [(0x200, ⟨⟨.jp 0x200, none⟩, 2⟩)], sr := { fresh.sr with ie := ie }, iePrev := iePrev, imsk := imsk, imskPrev := imskPrev, irqInp := irq }

/-- The inputs that can be accepted at a boundary. -/
def accepts (s : State) : List (Fin 15) := (List.finRange 15).filter s.mayAccept

/-- Rows 1 to 3: priority, a masked input, IE clear. -/
theorem test_rows_1_to_3 : accepts (boundary true true 0x7FFF 0x7FFF 0x88) = [3] ∧
    accepts (boundary true true 0x7FF7 0x7FF7 0x88) = [7] ∧
    accepts (boundary false false 0x7FFF 0x7FFF 0x7FFF) = [] := by decide

/-- Rows 4 to 6: the stale way, and both ways at once. -/
theorem test_rows_4_to_6 : accepts (boundary false true 0x7FFF 0x7FFF 0x4) = [2] ∧
    accepts (boundary true true 0x7FFB 0x7FFF 0x4) = [2] ∧
    accepts (boundary true true 0x7FFB 0x7FFF 0x24) = [2, 5] := by decide

/-- Rows 7 to 10: setting IE takes effect at once; all masked; no request; debug and wait state. -/
theorem test_rows_7_to_10 : accepts (boundary true false 0x7FFF 0x7FFF 0x4000) = [14] ∧
    accepts (boundary true true 0 0 0x7FFF) = [] ∧ accepts (boundary true true 0x7FFF 0x7FFF 0) = [] ∧
    accepts { boundary true true 0x7FFF 0x7FFF 1 with run := .debug } = [] ∧
    accepts { boundary true true 0x7FFF 0x7FFF 1 with run := .wait } = [] := by decide

/-- The entry state the spec writes out for row 1, taken by the core alone. -/
theorem test_entry : after (step { boundary true true 0x7FFF 0x7FFF 0x88 with
    sr := { fresh.sr with ie := true, srmeOther := 1 } })
    (fun t => (t.ilr, t.pc, t.sr.ie, t.sr.ie0, t.sr.other0, t.iePrev, t.imskPrev, t.history)) =
    some (0x200, 8, false, true, 1, false, 0x7FFF, [.iack 3]) := by rfl

/-- Row 4's entry: SRME0.IE takes the new IE. -/
theorem test_stale_entry : after (step { boundary false true 0x7FFF 0x7FFF 0x4 with agenda := [.accept 2] })
    (fun t => (t.pc, t.sr.ie0, t.iackOut)) = some (6, false, 0x4) := by decide

/-! ## Reset (V2.7) -/

/-- V2.7/1, from a halted core. -/
theorem test_hard_reset : after (step { boundary true true 1 1 0x88 with run := .powerDown, agenda := [.hardReset] })
    (fun t => (t.pc, t.imsk, t.sr.ie, t.run, t.iePrev, t.imskPrev, t.powerdownOut)) =
    some (0, 0x7FFF, false, .running, false, 0x7FFF, false) := by rfl

/-- V2.7/2, and the other of V2.1/4's two: PC alone. -/
theorem test_soft_reset :
    after (step (before (.sint 0) { fresh with imsk := 1, sp := 0x1000 })) (fun t => (t.pc, t.imsk, t.sp)) =
      some (0, 1, 0x1000) ∧
    after (step (before (.sint 0) { fresh with
      par := { testParams with irq0FullEntry := false }, ilr := 0x40, sr := { fresh.sr with ie := true } }))
      (fun t => (t.pc, t.ilr, t.sr.ie0, t.sr.ie)) = some (0, 0x40, false, true) := by decide

/-! ## Witnesses: a state and operands that meet each statement's hypotheses, at the edges of each clause -/

/-- The machine with loop registers in use and LCP = `i`, SP at the last slot of the stack, `w` in that slot. -/
def stacked (i : Fin 5) (w : Word) : State := withSlot 0x0FFC w { looping i with sp := 0x0FFC }

/-- `stacked` with `m` as its next move. -/
def moving (m : Move) (s : State) : State := { s with agenda := [m] }

theorem stacked_wellKept (i : Fin 5) (w : Word) : WellKept (stacked i w) where
  par := test_params_lawful
  pc := by show 0 < 2 ^ 32; decide
  ilr := by show 0 < 2 ^ 32; decide
  sp := by show 0x0FFC < 2 ^ 32; decide
  sr := by show StatusReg.fits testParams.srLayout fresh.sr = true; decide
  loops j := ⟨BitVec.isLt _, BitVec.isLt _, BitVec.isLt _⟩
  mem := Memory.wf_writeSlot _ rfl _ _
  regs := rfl
  memRange c hc := by
    obtain hc | hc := Memory.mem_writeSlot hc
    · exact Nat.lt_trans (show c.1 < 0x1000 by omega) (by show 0x1000 < 2 ^ 32; decide)
    · cases hc
  pm := rfl

theorem stacked_holds (i : Fin 5) (w : Word) : SlotHolds (stacked i w) 0 w :=
  ⟨⟨by decide, by show Params.slotAdmitted testParams (State.slotAddr { fresh with sp := 0x0FFC } 0) = true; decide⟩,
    Memory.readSlot_writeSlot_self ..⟩

/-- The smallest and the largest vector address; no acknowledges, and some. -/
theorem test_witness_SoftwareInterruptTakesTheEntry :
    (2 % 2 = 0 ∧ 0 < 2 ∧ 2 ≤ 30 ∧ fresh.par.sintPulsesIack = false) ∧
    30 % 2 = 0 ∧ 0 < 30 ∧ 30 ≤ 30 ∧ ({ testParams with sintPulsesIack := true } : Params).sintPulsesIack = true := by
  decide

/-- The smallest and the largest address; where PC has 5 bits. -/
theorem test_witness_JumpSetsOnlyThePc : 0 < 2 ^ testParams.pcw ∧ 0xFFFFFFFF < 2 ^ testParams.pcw := by decide

theorem test_witness_JumpOutsideProgramMemoryIsStuck : ({ testParams with pcw := 5 } : Params).lawful = true ∧
    2 ^ ({ testParams with pcw := 5 } : Params).pcw ≤ 32 := by decide

/-- The `sint` line of `atLine` with next(a) latched; by either reading of SintReturn, and for `sint 0`. -/
theorem test_witness_SoftwareInterruptResumesAfterItsLine :
    testParams.lawful = true ∧ ({ testParams with sintReturn := .itsNop 1 } : Params).lawful = true ∧
    (before (.sint 4) fresh).run = .running ∧ programDefect testParams (before (.sint 4) fresh).pm = none ∧
    (before (.sint 4) fresh).lineAt 0x200 = some ⟨⟨.sint 4, some .nop⟩, 2⟩ ∧
    ({ before (.sint 4) fresh with npc := 0x202 } : State).npc = 0x200 + 2 ∧
    ((before (.sint 4) fresh).lineAt 0x202).isSome = true ∧ 4 ≠ 0 ∧ testParams.irq0FullEntry = true := by decide

theorem test_witness_SoftResetIsFullEntryOrPcAlone : fresh.par.irq0FullEntry = true ∧
    ({ testParams with irq0FullEntry := false } : Params).irq0FullEntry = false := by decide

theorem test_witness_PowerdownHaltsTheCore : fresh.run = .running ∧
    (moving .line { fresh with run := .powerDown }).run = .powerDown ∧
    (moving .line { fresh with run := .powerDown }).agenda = [.line] := by decide

theorem test_witness_MaskWriteOfAnImmediate : 0 ≤ 0x7FFF ∧ 0x7FFF ≤ 0x7FFF := by decide

theorem test_witness_MaskReadZeroExtends : Registers.wf (fresh.setReg 5 9).regs = true := by decide

/-- With request 14 HIGH and unmasked, and request 0 HIGH and unmasked. -/
theorem test_witness_StatusReadShowsUnmaskedRequests : Registers.wf fresh.regs = true ∧
    (boundary false false 0x7FFF 0 0x4001).imsk.getLsbD 14 = true ∧
    (boundary false false 0x7FFF 0 0x4001).imsk.getLsbD 0 = true := by decide

/-- Every register has a value with LCP at 3 and at 0, in the first slot of the stack and in the last. -/
theorem test_witness_StoreWritesOneSlot : WellKept (stacked 3 0) ∧ WellKept (stacked 0 0) ∧
    SlotReady (stacked 3 0) 0 ∧ SlotReady { stacked 0 0 with sp := 0x800 } 0 ∧
    (∀ r ∈ [MovedReg.lcp, .lc, .lstk, .lpa, .sr, .ilr],
      (r.value (stacked 3 0)).isSome = true ∧ (r.value (stacked 0 0)).isSome = true) :=
  ⟨stacked_wellKept 3 0, stacked_wellKept 0 0, ⟨by decide, by decide⟩, ⟨by decide, by decide⟩, by decide⟩

/-- A slot that holds 0, and one that holds 4. -/
theorem test_witness_LoadLoopPointer :
    (SlotHolds (stacked 4 0) 0 0 ∧ (unpack (stacked 4 0).par.lcpW 0).toNat ≤ 4) ∧
    SlotHolds (stacked 0 4) 0 4 ∧ (unpack (stacked 0 4).par.lcpW 4).toNat ≤ 4 :=
  ⟨⟨stacked_holds 4 0, by decide⟩, stacked_holds 0 4, by decide⟩

theorem test_witness_LoadLoopRegister :
    (SlotHolds (stacked 0 7) 0 7 ∧ (stacked 0 7).lcp.val = (0 : Fin 4).val) ∧
    SlotHolds (stacked 3 7) 0 7 ∧ (stacked 3 7).lcp.val = (3 : Fin 4).val :=
  ⟨⟨stacked_holds 0 7, rfl⟩, stacked_holds 3 7, rfl⟩

theorem test_witness_LoadStatusRegister :
    srLayoutLawful (stacked 4 0x12).par.srLayout = true ∧ SlotHolds (stacked 4 0x12) 0 0x12 :=
  ⟨by decide, stacked_holds 4 0x12⟩

theorem test_witness_LoadLinkRegister : SlotHolds (stacked 4 0x120) 0 0x120 := stacked_holds 4 0x120

/-- A store of LPA[2], and a load with nothing changed in between. -/
theorem test_witness_LoadRestoresWhatWasStored : ∃ t, exec (MovedReg.store 0 .lpa) (stacked 2 0) = .next t ∧
    WellKept (stacked 2 0) ∧ t.lcp = (stacked 2 0).lcp := ⟨_, rfl, stacked_wellKept 2 0, rfl⟩

theorem test_witness_WindowRefusedAtFour : MovedReg.windowed .lc = true ∧ 0 % 4 = 0 ∧ (looping 4).lcp = 4 := by decide

/-- SP misaligned, below the stack, and above it. -/
theorem test_witness_AccessOutsideTheStackRefused :
    (∀ a ∈ [0x0FC9, 0x07FC, 0x1000],
      Params.slotAdmitted testParams (State.slotAddr { looping 3 with sp := a } 0) = false) ∧
    (MovedReg.value (looping 3) .lc).isSome = true := by decide

theorem test_witness_LoadOfUnwrittenSlotFaults : SlotReady { looping 3 with sp := 0x0FFC } 0 ∧
    (MovedReg.value (looping 3) .lc).isSome = true ∧ Memory.readSlot false fresh.mem 0x0FFC = none :=
  ⟨⟨by decide, by decide⟩, by decide, by decide⟩

theorem test_witness_LoopPointerAboveFourFaults :
    SlotHolds (stacked 4 5) 0 5 ∧ 4 < (unpack (stacked 4 5).par.lcpW 5).toNat := ⟨stacked_holds 4 5, by decide⟩

/-- The spec's example: SP = 0x1000, LCP = 1, the frame at the top of the stack region. -/
theorem test_witness_EnvelopeRestoresTheLoops : WellKept { looping 1 with sp := 0x1000 } ∧ 56 ≤ 0x1000 ∧
    0x1000 % 4 = 0 ∧ testParams.stackLo ≤ 0x1000 - 56 ∧ 0x1000 ≤ testParams.stackHi := by
  refine ⟨⟨test_params_lawful, by show 0 < 2 ^ 32; decide, ?_, ?_, by decide, fun j => ⟨BitVec.isLt _, BitVec.isLt _, BitVec.isLt _⟩, rfl, rfl,
    by decide, rfl⟩, by decide⟩
  · show 0 < 2 ^ 32; decide
  · show 0x1000 < 2 ^ 32; decide

theorem test_witness_InadmissibleOperandRefused : Instr.defect (.sint 31) = some .sintOperandNotVectorAddress ∧
    Instr.defect (.ieSet 2) = some .ieOperandNotBit ∧ Instr.defect (.ldLc 1) = some .offsetNotMultipleOfFour := by decide

/-- A defect first in the program and one after a good line, by a line and by an acceptance. -/
theorem test_witness_InadmissibleLineRefused :
    Placed.defect ⟨⟨.reti, none⟩, 2⟩ = some .bareReti ∧
    (atLine 0x200 ⟨.reti, none⟩ 2 fresh).run = .running ∧ (atLine 0x200 ⟨.reti, none⟩ 2 fresh).agenda = [.line] ∧
    programDefect testParams (atLine 0x200 ⟨.reti, none⟩ 2 fresh).pm = some .bareReti ∧
    programDefect testParams [(0, ⟨⟨.nop, none⟩, 1⟩), (8, ⟨⟨.reti, none⟩, 2⟩)] = some .bareReti ∧
    NormalWay (boundary true true 0x7FFF 0x7FFF 1) 0 := by
  simp only [NormalWay, Eligible]
  decide

theorem test_witness_InadmissibleTextRefused : Line.defect ⟨.sint 31, some .nop⟩ = some .sintOperandNotVectorAddress ∧
    Line.defect ⟨.nop, some .reti⟩ = some .bareReti := by decide

/-- Two lines, the second ending with the address space. -/
theorem test_witness_AdmittedProgramHasOnlyAdmittedLines : testParams.lawful = true ∧
    after (State.loadProgram fresh [(0, ⟨⟨.jp 30, none⟩, 2⟩), (0xFFFFFFFE, ⟨⟨.reti, some .nop⟩, 2⟩)])
      (·.lineAt 0xFFFFFFFE) = some (some ⟨⟨.reti, some .nop⟩, 2⟩) := by decide

/-- A line that is the next move, one the core runs by itself, and one that uses no next line. -/
theorem test_witness_StepRunsTheLineAtPc :
    AtOperation (before (.lcpSet 4) fresh) ⟨⟨.lcpSet 4, none⟩, 2⟩ ∧ Line.op ⟨.lcpSet 4, none⟩ = some (.lcpSet 4) ∧
    ((before (.lcpSet 4) fresh).lineAt 0x202).isSome = true ∧ (before (.lcpSet 4) fresh).agenda = [.line] ∧
    AtOperation { before (.lcpSet 4) fresh with agenda := [] } ⟨⟨.lcpSet 4, none⟩, 2⟩ ∧ fresh.sr.ie = false ∧
    AtOperation (boundary true true 0 0 1) ⟨⟨.jp 0x200, none⟩, 2⟩ := by
  simp only [AtOperation]
  decide

/-- The text `nop`, placed at 0. -/
theorem test_witness_DecodedTextRuns : decodeTableLine 24 0x706f6e = some ⟨.nop, none⟩ ∧
    Line.op ⟨.nop, none⟩ = some .nop ∧ Params.inProgramMemory fresh.par (fresh.pc + 2) = true := by decide

/-- No line at PC, by a line and by an acceptance; and no line after the one at PC. -/
theorem test_witness_FetchOutsideTheProgramIsStuck :
    fresh.run = .running ∧ (moving .line fresh).agenda = [.line] ∧ programDefect testParams fresh.pm = none ∧
    fresh.par.sintReturn = .lineAfter ∧ (insideSint false).returned = false ∧ fresh.operationAt 0 = none ∧
    State.operationAt { boundary true true 0x7FFF 0x7FFF 1 with pc := 0x201 } 0x201 = none ∧
    NormalWay (boundary true true 0x7FFF 0x7FFF 1) 0 ∧
    State.operationAt { fresh with pm := [(0, ⟨⟨.nop, none⟩, 2⟩)] } 0 = some ⟨⟨.nop, none⟩, 2⟩ ∧
    State.lineAt { fresh with pm := [(0, ⟨⟨.nop, none⟩, 2⟩)] } 2 = none := by
  simp only [NormalWay, Eligible]
  decide

/-- The machine of `insideSint` about to run, from 0x100, a `jp` into the middle of the `sint` line, or to accept input
`k`; then `m`. -/
def intoSint (first m : Move) : State :=
  { boundary true true 0x7FFF 0x7FFF 0x4001 with
    par := { testParams with sintReturn := .itsNop 1 }, pc := 0x100, agenda := [first, m]
    pm := [(0x100, ⟨⟨.jp 0x201, none⟩, 2⟩), (0x200, ⟨⟨.sint 4, some .nop⟩, 2⟩), (0x202, ⟨⟨.nop, none⟩, 1⟩)] }

/-- A jump to the `nop` inside a line and an entry at a vector where no line stands, before a line; the jump before an
acceptance. -/
theorem test_witness_OnlyReturnGoesOnInsideALine :
    AtOperation (intoSint .line .line) ⟨⟨.jp 0x201, none⟩, 2⟩ ∧ Line.op ⟨.jp 0x201, none⟩ = some (.jp 0x201) ∧
    after (step (intoSint .line .line)) (fun t => (t.run, t.lineAt t.pc, t.agenda.head?)) =
      some (.running, none, some .line) ∧
    (intoSint (.accept 0) .line).mayAccept 0 = true ∧
    after (step (intoSint (.accept 0) .line)) (fun t => (t.run, t.lineAt t.pc, t.agenda.head?)) =
      some (.running, none, some .line) ∧
    (∃ t, step (intoSint .line (.accept 0)) = .next t ∧ NormalWay t 0 ∧ t.lineAt t.pc = none ∧
      t.agenda.head? = some (.accept 0)) := by
  refine ⟨⟨by decide, by decide, by decide⟩, by decide, by decide, by decide, by decide, _, rfl, ?_, by decide,
    by decide⟩
  simp only [NormalWay, Eligible]
  decide

theorem test_witness_LowestInputHasPriority : (boundary true true 0x7FFF 0x7FFF 0x4000).sr.ie = true ∧
    Eligible (boundary true true 0x7FFF 0x7FFF 0x4000) 14 ∧ Eligible (boundary true true 0x7FFF 0x7FFF 0x7FFF) 0 := by
  simp only [Eligible]
  decide

/-- The first input and the last by the normal way, and the stale way with IE clear. -/
theorem test_witness_AcceptedInterruptEnters :
    AtOperation (boundary true true 0x7FFF 0x7FFF 0x4000) ⟨⟨.jp 0x200, none⟩, 2⟩ ∧
    NormalWay (boundary true false 0x7FFF 0x7FFF 0x7FFF) 0 ∧ NormalWay (boundary true true 0x7FFF 0x7FFF 0x4000) 14 ∧
    StaleWay (moving (.accept 2) (boundary false true 0x7FFF 0x7FFF 0x4)) 2 := by
  simp only [AtOperation, NormalWay, StaleWay, Eligible, EligibleInWindow]
  decide

theorem test_witness_AcknowledgeOnlyOnAcceptance :
    after (step (boundary true true 0x7FFF 0x7FFF 0x88)) (·.history) = some [.iack 3] := by decide

/-- The first entry by a hardware input and the last; the first and the last by `sint`; and ILR changed by each. -/
theorem test_witness_OneVectorTableOneLevel :
    (moving (.accept 0) (boundary true true 0x7FFF 0x7FFF 1)).mayAccept 0 = true ∧
    after (step (moving (.accept 0) (boundary true true 0x7FFF 0x7FFF 1))) (fun t => (t.pc, t.ilr)) =
      some (2, 0x200) ∧
    (moving (.accept 14) (boundary true true 0x7FFF 0x7FFF 0x4000)).mayAccept 14 = true ∧
    after (step (moving (.accept 14) (boundary true true 0x7FFF 0x7FFF 0x4000))) (fun t => (t.pc, t.ilr)) =
      some (30, 0x200) ∧
    0 < 16 ∧ 15 < 16 ∧ fresh.par.irq0FullEntry = true ∧ fresh.ilr = 0 ∧
    (∀ v ∈ [0, 30], after (step (before (.sint v) fresh)) (fun t => (t.pc, t.ilr)) = some (v, 0x202)) := by decide

theorem test_witness_EntryThenReturnResumes :
    (moving (.accept 14) (boundary true true 0x7FFF 0x7FFF 0x4000)).mayAccept 14 = true ∧
    ∃ t, step (moving (.accept 14) (boundary true true 0x7FFF 0x7FFF 0x4000)) = .next t := ⟨by decide, _, rfl⟩

theorem test_witness_WindowLastsOneLine :
    (before (.ieSet 0) fresh).operationAt 0x200 = some ⟨⟨.ieSet 0, none⟩, 2⟩ ∧
    Line.op ⟨.ieSet 0, none⟩ = some (.ieSet 0) ∧ ∃ t, step (before (.ieSet 0) fresh) = .next t :=
  ⟨by decide, by decide, _, rfl⟩

/-- A halted core with nothing enabled and every input low, `resume` as given. -/
def halted (resume : Bool) : State := moving .wake { fresh with run := .powerDown, resume := resume }

/-- A halted core with input 5 HIGH, enabled or not. -/
def requested (ie : Bool) : State := moving .wake { boundary ie ie 0x7FFF 0x7FFF 0x20 with run := .powerDown }

/-- By `resume` with nothing enabled, by an enabled request, and by a disabled one where WAKE_NEEDS_ENABLE is false; the
core alone by the first two. -/
theorem test_witness_WakeFromPowerDown :
    ((halted true).run = .powerDown ∧ (halted true).agenda = [.wake] ∧ (halted true).resume = true) ∧
    ((requested true).run = .powerDown ∧ (requested true).sr.ie = true ∧ Eligible (requested true) 5 ∧
      ({ requested true with agenda := [] } : State).agenda = []) ∧
    (requested false).run = .powerDown ∧ (requested false).irqInp.getLsbD 5 = true ∧
    ({ requested false with par := { testParams with wakeNeedsEnable := false } } : State).par.wakeNeedsEnable =
      false := by
  simp only [Eligible]
  decide

theorem test_witness_NothingElseWakes : (halted true).run = .powerDown ∧
    after (step (halted true)) (·.run) = some .running ∧
    after (step (moving .hardReset (halted false))) (·.run) = some .running ∧
    after (step (halted false)) (·.run) = some .powerDown := by decide

theorem test_witness_HaltedCoreChangesNothing :
    (halted false).run = .powerDown ∧ (halted false).agenda.head? ≠ some .hardReset ∧
    (moving .line { fresh with run := .wait }).run = .wait ∧
    (moving .line { fresh with run := .wait }).agenda.head? ≠ some .hardReset := by decide

/-- A debugger's write, and a move that is none. -/
theorem test_witness_DebugStateAcceptsNothing :
    (moving (.debugWrite (.pc 4)) { fresh with run := .debug }).run = .debug ∧
    (moving (.debugWrite (.pc 4)) { fresh with run := .debug }).agenda.head? = some (.debugWrite (.pc 4)) ∧
    (moving (.accept 0) { fresh with run := .debug }).run = .debug ∧
    (moving (.accept 0) { fresh with run := .debug }).agenda.head? = some (.accept 0) := by decide

theorem test_witness_HardwareResetEffect : (moving .hardReset fresh).agenda = [.hardReset] := by decide

/-- An instruction of each kind answers a next state. -/
theorem test_witness_OnlyTheseInstructionsWrite : ∀ i ∈ [Instr.jp 0, .sint 2, .ieSet 1, .spAdd 8, .ldLc 0, .stIlr 0],
    (after (exec i (stacked 3 1)) (·.pc)).isSome = true := by decide

theorem test_witness_NoStepChangesTheProgram : ∃ t, step (before .nop fresh) = .next t := ⟨_, rfl⟩

/-- One slot written in either byte order holds the same value, and every other slot none. -/
theorem readSlot_one_slot (e e' : Bool) (p a : Nat) (w : Word) (hp : p % 4 = 0) (ha : a % 4 = 0) :
    Memory.readSlot e (Memory.writeSlot e [] p w) a = Memory.readSlot e' (Memory.writeSlot e' [] p w) a := by
  by_cases h : a = p
  · rw [h, Memory.readSlot_writeSlot_self, Memory.readSlot_writeSlot_self]
  · rw [Memory.readSlot_writeSlot_other e [] hp ha h, Memory.readSlot_writeSlot_other e' [] hp ha h]
    rfl

/-- A slot of the stack, written in the one byte order and in the other. -/
theorem test_witness_ByteOrderIsUnobservable :
    AlikeButByteOrder { stacked 3 0 with mem := Memory.writeSlot false [] 0x0FFC 0x12345678 }
      { stacked 3 0 with
        par := { testParams with bigEndian := true }, mem := Memory.writeSlot true [] 0x0FFC 0x12345678 } ∧
    Memory.writeSlot false [] 0x0FFC 0x12345678 ≠ Memory.writeSlot true [] 0x0FFC 0x12345678 ∧
    (after (exec (.ldIlr 0) (stacked 3 0x12345678)) (·.ilr)) = some 0x12345678 :=
  ⟨⟨rfl, fun _ ha => readSlot_one_slot _ _ _ _ _ rfl ha⟩, by decide, by decide⟩

theorem test_witness_EveryStepKeepsWellKept :
    WellKept (stacked 3 0) ∧ ∃ t, step (moving (.debugWrite (.sp 0x800)) (stacked 3 0)) = .next t :=
  ⟨stacked_wellKept 3 0, _, rfl⟩

theorem test_witness_HistoryFollowsPowerdownOut : HistoryAgrees fresh ∧
    HistoryAgrees { fresh with run := .powerDown, history := [.powerdownOut true] } ∧
    ∃ t, step (before .powerdown fresh) = .next t := ⟨rfl, rfl, _, rfl⟩

end Sys2Proof.Tests
end

section
/-! Proofs about software interrupts and returns (40_sint_reti.md). -/

namespace Sys2Proof.Machine

/-- `reti` completes from every state, and is the return of 60_exceptions.md R185 (R101). -/
theorem exec_reti (s : State) : exec .reti s = .next s.returnFromInterrupt := rfl

/-- SRME comes back from its backup: IE and SRME_OTHER, each from its own part of SRME0, and the backup stays (R101). -/
theorem StatusReg.restore_eq (r : StatusReg) : r.restore = { r with ie := r.ie0, srmeOther := r.other0 } := rfl

/-- A return writes PC, SR and the model's own `returned`, and no other field (R101; log entry 21). -/
theorem State.returnFromInterrupt_eq (s : State) :
    s.returnFromInterrupt =
      { s with pc := s.ilr, sr := s.sr.restore, returned := s.returnFromInterrupt.returned } := rfl

/-- Settles O4: the state `reti` answers is the return's, whose fields are those R101 names. -/
theorem returnRestoresPcAndSrme : Obligations.ReturnRestoresPcAndSrme := by
  intro s
  refine ⟨s.returnFromInterrupt, exec_reti s, ?_⟩
  rw [← StatusReg.restore_eq]
  exact s.returnFromInterrupt_eq

end Sys2Proof.Machine
end

section
/-! Proofs about jump and no-operation (41_jp_nop.md). -/

namespace Sys2Proof.Machine

/-- `jp` sets PC where the target is an address of program memory, and is stuck elsewhere (R110; log entry 12). -/
theorem exec_jp (T : Nat) (s : State) :
    exec (.jp T) s =
      if Params.inProgramMemory s.par T then .next { s with pc := T } else .fault .fetchOutsideProgram := rfl

/-- Every number of PCW bits is an address of program memory, whatever PCW is; `Params.inProgramMemory_iff` is the
converse too, for lawful parameters. -/
theorem Params.inProgramMemory_of_lt {p : Params} {a : Nat} (h : a < 2 ^ p.pcw) :
    Params.inProgramMemory p a = true :=
  Bool.or_eq_true_iff.mpr (.inr (decide_eq_true h))

/-- Settles O1: a target below 2^PCW is an address of program memory, so `jp` takes its completing branch. -/
theorem jumpSetsOnlyThePc : Obligations.JumpSetsOnlyThePc := by
  intro T s hT
  rw [exec_jp, if_pos (Params.inProgramMemory_of_lt hT)]

/-- `nop` completes from every state, and is the move to `next(a)` every straight-line instruction ends with (R111). -/
theorem exec_nop (s : State) : exec .nop s = .next s.advance := rfl

/-- The move to `next(a)` writes PC and no other field. -/
theorem State.advance_eq (s : State) : s.advance = { s with pc := s.npc } := rfl

/-- A `nop` after an operation adds nothing to it (R111). -/
@[simp] theorem Line.op_nop_second (a : Instr) : Line.op ⟨a, some .nop⟩ = some a := rfl

/-- A `nop` before an operation adds nothing to it (R111). The split is on whether that operation is `nop` itself: a
line of two `nop`s is read by the arm of a second `nop`, any other by the arm of a first one. -/
@[simp] theorem Line.op_nop_first (a : Instr) : Line.op ⟨.nop, some a⟩ = some a := by
  by_cases ha : a = .nop
  · rw [ha, Line.op_nop_second]
  · rw [Line.op]
    exact ha

/-- Settles O3: `nop` answers the move to `next(a)`, and on either side of a line it leaves the other operation's
meaning. -/
theorem nopOnlyAdvancesThePc : Obligations.NopOnlyAdvancesThePc := by
  refine ⟨fun s => ?_, fun a => ⟨Line.op_nop_second a, Line.op_nop_first a⟩⟩
  rw [exec_nop, State.advance_eq]

end Sys2Proof.Machine
end

section
/-! Proofs about the interrupt enable (42_ie_imsk_irqstat.md). -/

namespace Sys2Proof.Machine

/-- The interrupt enable is one bit, so `ie = u` is admitted for `u` 0 and 1 (30_encoding.md R93). -/
theorem Instr.defect_ieSet_of_le {u : Nat} (hu : u ≤ 1) : (Instr.ieSet u).defect = none := if_pos hu

/-- With an admitted operand `ie = u` completes: the enable bit is written, then PC moves on (R120). -/
theorem exec_ieSet_of_le {u : Nat} (hu : u ≤ 1) (s : State) :
    exec (.ieSet u) s = .next (s.setIe (u == 1)).advance :=
  ifAdmitted_of_none (Instr.defect_ieSet_of_le hu) _

/-- Writing the enable bit and moving on changes PC and `SR.IE` alone: `next(a)` does not depend on the bit. -/
theorem State.setIe_advance_eq (s : State) (b : Bool) :
    (s.setIe b).advance = { s with pc := s.npc, sr := { s.sr with ie := b } } := rfl

/-- Settles O10: both operands, 1 and 0, are admitted, so either write completes and changes PC and `SR.IE` alone. -/
theorem enableWriteSetsIe : Obligations.EnableWriteSetsIe := by
  intro s
  have hwrite {u : Nat} (hu : u ≤ 1) :
      exec (.ieSet u) s = .next { s with pc := s.npc, sr := { s.sr with ie := u == 1 } } := by
    rw [exec_ieSet_of_le hu, State.setIe_advance_eq]
  exact ⟨hwrite le_rfl, hwrite zero_le_one⟩

end Sys2Proof.Machine
end

section
/-! Proofs about the loop count pointer (43_stack_loopregs.md). -/

namespace Sys2Proof.Machine

/-- The loop count pointer holds 0 to 4, and `lcp = i` is admitted for just such an `i` (30_encoding.md R88, R93). -/
theorem Instr.defect_lcpSet_of_le {i : Nat} (hi : i ≤ 4) : (Instr.lcpSet i).defect = none := if_pos hi

/-- With an admitted operand `lcp = i` completes: the pointer is written and PC moves on (R143). -/
theorem exec_lcpSet_of_le {i : Nat} (hi : i ≤ 4) (s : State) :
    exec (.lcpSet i) s = .next { s.advance with lcp := Fin.ofNat 5 i } :=
  ifAdmitted_of_none (Instr.defect_lcpSet_of_le hi) _

/-- Settles O16: every pointer value is an admitted operand, and the write gives back that very value. -/
theorem loopPointerImmediate : Obligations.LoopPointerImmediate := by
  intro i s
  have hi : i.val ≤ 4 := Nat.le_of_lt_succ i.isLt
  rw [exec_lcpSet_of_le hi, Fin.ofNat_val_eq_self, State.advance_eq]

end Sys2Proof.Machine
end

section
/-! Proofs about the software reset `sint 0` (70_reset_and_hazards.md R222). -/

namespace Sys2Proof.Machine

/-- The vector addresses, even and 30 at most, are the admitted operands of `sint` (30_encoding.md R93). -/
theorem Instr.defect_sint_of_vector {v : Nat} (heven : v % 2 = 0) (hv : v ≤ 30) : (Instr.sint v).defect = none :=
  if_pos ⟨heven, hv⟩

/-- With an admitted operand `sint v` completes from every state: IE and IMSK do not hold it back (R100). -/
theorem exec_sint_of_vector {v : Nat} (heven : v % 2 = 0) (hv : v ≤ 30) (s : State) :
    exec (.sint v) s = .next (s.softwareInterrupt v) :=
  ifAdmitted_of_none (Instr.defect_sint_of_vector heven hv) _

/-- Whatever acknowledges a software interrupt gives, it writes no register beside those of its entry (R100, D14; log
entry 13). -/
theorem State.softwareInterrupt_eq (s : State) (v : Nat) :
    s.softwareInterrupt v =
      { s.softwareEntry v with
        iackOut := (s.softwareInterrupt v).iackOut, history := (s.softwareInterrupt v).history,
        draws := (s.softwareInterrupt v).draws } := by
  obtain h | ⟨-, m, h⟩ := s.softwareInterrupt_cases v
  · rw [h]
  · rw [h]
    rfl

/-- Settles O7: by either reading of IRQ0_FULL_ENTRY the entry goes to address 0 and keeps the registers R222 lists, and
the acknowledges touch none of them. -/
theorem softResetKeepsTheRegisters : Obligations.SoftResetKeepsTheRegisters := by
  intro s
  refine ⟨s.softwareInterrupt 0, exec_sint_of_vector rfl (Nat.zero_le 30) s, ?_⟩
  rw [State.softwareInterrupt_eq]
  obtain hpcAlone | hfullEntry := s.softwareEntry_cases 0
  · simp [hpcAlone]
  · simp [hfullEntry]

end Sys2Proof.Machine
end

section
/-! Proofs about the text of a line: what the encoder writes, the decoder reads back (30_encoding.md R82, R83, R92). -/

namespace Sys2Proof

/-! ## Characters and bytes -/

/-- Characters of one byte come back from their bytes. -/
theorem charsOf_bytesOf {cs : List Char} (h : ∀ c ∈ cs, c.toNat < 256) : charsOf (bytesOf cs) = cs := by
  rw [charsOf, bytesOf, List.map_map]
  refine (List.map_congr_left fun c hc => ?_).trans (List.map_id cs)
  simp [Nat.mod_eq_of_lt (h c hc)]

/-- A character that may stand inside a name. -/
def inWord (c : Char) : Bool := isLetter c || isDigit c

theorem inWord_iff {c : Char} : inWord c = true ↔
    ((97 ≤ c.toNat ∧ c.toNat ≤ 122 ∨ 65 ≤ c.toNat ∧ c.toNat ≤ 90) ∨ c.toNat = 95) ∨ 48 ≤ c.toNat ∧ c.toNat ≤ 57 := by
  simp [inWord, isLetter, isDigit]

theorem isSpace_of_inWord {c : Char} (h : inWord c = true) : isSpace c = false := by
  rw [inWord_iff] at h
  simp only [isSpace, Bool.or_eq_false_iff, beq_eq_false_iff_ne]
  omega

/-- No name and no number goes on with the text `cs`. -/
def EndsWord (cs : List Char) : Prop := ∀ c ∈ cs.head?, inWord c = false

/-! ## The lexer, token by token (R83) -/

/-- A name's characters are gathered one after another. -/
theorem lexFrom_word (w : List Char) (hw : ∀ c ∈ w, inWord c = true) (acc cs : List Char) :
    lexFrom (.word acc) (w ++ cs) = lexFrom (.word (w.reverse ++ acc)) cs := by
  induction w generalizing acc with
  | nil => rfl
  | cons c w ih =>
    have hc : (isLetter c || isDigit c) = true := hw c (by simp)
    have hstep : lexStep (.word acc) c = some ([], .word (c :: acc)) := if_pos hc
    simp [lexFrom, hstep, ih fun d hd => hw d (List.mem_cons_of_mem _ hd)]

/-- The lexer in state `st` has read token `t`, but for seeing that it ends. -/
def HasRead (st : LexState) (t : Token) : Prop :=
  lexEnd st = some [t] ∧ ∀ c, inWord c = false → lexStep st c = lexAfter t c

/-- A token read is given out where the text after it cannot go on with it. -/
theorem lexFrom_of_hasRead {st : LexState} {t : Token} (ht : HasRead st t) {cs : List Char} (hcs : EndsWord cs) :
    lexFrom st cs = (lexFrom .idle cs).map (t :: ·) := by
  cases cs with
  | nil => exact ht.1
  | cons c cs =>
    rw [lexFrom, ht.2 c (hcs c rfl), lexFrom, lexStep, lexAfter]
    cases lexStart c with
    | none => rfl
    | some r => simp [Function.comp_def]

theorem hasRead_word (acc : List Char) : HasRead (.word acc) (wordToken acc.reverse) :=
  ⟨rfl, fun c hc => if_neg (by rw [inWord] at hc; simp [hc])⟩

/-- Where the lexer stands after the digits of `n`. -/
def numState (n : Nat) : LexState := if n = 0 then .zero else .dec n

theorem hasRead_numState (n : Nat) : HasRead (numState n) (.num n) := by
  unfold numState
  split
  · next h =>
    subst h
    refine ⟨rfl, fun c hc => ?_⟩
    have hx : c ≠ 'x' := by rintro rfl; revert hc; decide
    obtain ⟨hl, hd⟩ := Bool.or_eq_false_iff.1 hc
    simp [lexStep, hx, hl, hd]
  · refine ⟨rfl, fun c hc => ?_⟩
    obtain ⟨hl, hd⟩ := Bool.or_eq_false_iff.1 hc
    simp [lexStep, hl, hd]

/-! ## Numbers -/

theorem digitChar_mod (d : Nat) : digitChar d = digitChar (d % 10) := by simp [digitChar]

theorem isDigit_digitChar (d : Nat) : isDigit (digitChar d) = true := by
  have key : ∀ i < 10, isDigit (digitChar i) = true := by decide
  exact digitChar_mod d ▸ key _ (Nat.mod_lt _ (by decide))

theorem digitVal_digitChar (d : Nat) : digitVal (digitChar d) = d % 10 := by
  have key : ∀ i < 10, digitVal (digitChar i) = i := by decide
  exact digitChar_mod d ▸ key _ (Nat.mod_lt _ (by decide))

/-- A number's first digit: a leading 0 stands alone. -/
theorem lexStep_digitChar_first {d : Nat} (h : d < 10) : lexStep .idle (digitChar d) = some ([], numState d) := by
  have key : ∀ i < 10, lexStep .idle (digitChar i) = some ([], numState i) := by decide
  exact key d h

/-- The digits of a number, with fuel enough, lead the lexer to that number. -/
theorem lexFrom_decimalDigits {fuel n : Nat} (h : n < fuel) (cs : List Char) :
    lexFrom .idle (decimalDigits fuel n ++ cs) = lexFrom (numState n) cs := by
  induction fuel generalizing n cs with
  | zero => omega
  | succ fuel ih =>
    rw [decimalDigits]
    split
    · next hn => simp [lexFrom, lexStep_digitChar_first hn]
    · next hn =>
      have hq : n / 10 ≠ 0 := by omega
      have hn0 : n ≠ 0 := by omega
      have hstep : lexStep (.dec (n / 10)) (digitChar (n % 10)) = some ([], .dec n) := by
        have hval : 10 * (n / 10) + digitVal (digitChar (n % 10)) = n := by
          rw [digitVal_digitChar]
          omega
        rw [lexStep, if_pos (isDigit_digitChar _), hval]
      rw [List.append_assoc, ih (by omega), numState, numState, if_neg hq, if_neg hn0]
      simp [lexFrom, hstep]

/-! ## Names -/

/-- A keyword is spelled as a name: a letter first, then letters or digits; and that name reads as the keyword. -/
theorem Keyword.text_isName (k : Keyword) :
    (k.text.head?.any isLetter && k.text.all inWord) = true ∧ wordToken k.text = .kw k := by
  cases k <;> decide

/-- A name is read whole. -/
theorem lexFrom_name {w : List Char} (hw : (w.head?.any isLetter && w.all inWord) = true) (cs : List Char) :
    lexFrom .idle (w ++ cs) = lexFrom (.word w.reverse) cs := by
  cases w with
  | nil => simp at hw
  | cons c w =>
    simp only [List.head?_cons, Option.any_some, List.all_cons, Bool.and_eq_true, List.all_eq_true] at hw
    obtain ⟨hc, hcw, hw⟩ := hw
    have hstep : lexStep .idle c = some ([], .word [c]) := by
      simp [lexStep, lexStart, isSpace_of_inWord hcw, hc]
    simp [lexFrom, hstep, lexFrom_word w hw]

/-! ## One token, and a row of them -/

/-- A token that stands for itself: all but a symbol, which only the linker reads. -/
def Token.printed : Token → Bool
  | .sym _ => false
  | _ => true

/-- A token that no neighbour can run into: the punctuation. -/
def Token.closed : Token → Bool
  | .kw _ | .sym _ | .num _ => false
  | _ => true

/-- A printed token's text is read as that token, where what follows cannot go on with it. -/
theorem lexFrom_tokenText {t : Token} (ht : t.printed = true) {cs : List Char}
    (hcs : t.closed = true ∨ EndsWord cs) : lexFrom .idle (t.text ++ cs) = (lexFrom .idle cs).map (t :: ·) := by
  have punct : ∀ {c : Char} {t : Token}, lexStep .idle c = some ([t], .idle) →
      lexFrom .idle (c :: cs) = (lexFrom .idle cs).map (t :: ·) := by
    intro c t h
    simp [lexFrom, h]
  cases t with
  | kw k =>
    have hcs : EndsWord cs := by simpa [Token.closed] using hcs
    rw [Token.text, lexFrom_name k.text_isName.1, lexFrom_of_hasRead (hasRead_word _) hcs, List.reverse_reverse,
      k.text_isName.2]
  | sym w => cases ht
  | num n =>
    have hcs : EndsWord cs := by simpa [Token.closed] using hcs
    rw [Token.text, decimal, lexFrom_decimalDigits (Nat.lt_succ_self n), lexFrom_of_hasRead (hasRead_numState n) hcs]
  | plusEq =>
    have h1 : lexStep .idle '+' = some ([], .plus) := by decide
    have h2 : lexStep .plus '=' = some ([.plusEq], .idle) := by decide
    simp [Token.text, lexFrom, h1, h2, Function.comp_def]
  | semi | eq | minus | lbrack | rbrack | lt | gt => exact punct (by decide)

/-- The text of punctuation ends a name or number before it. -/
theorem endsWord_text_of_closed {t : Token} (h : t.closed = true) (cs : List Char) : EndsWord (t.text ++ cs) := by
  cases t with
  | kw k | sym w | num n => cases h
  | semi | eq | plusEq | minus | lbrack | rbrack | lt | gt =>
    rintro c ⟨⟩
    decide

/-- Of two neighbours written without a space between them, one is punctuation. -/
theorem closed_of_tightPair {a b : Token} (h : tightPair a b = true) : a.closed = true ∨ b.closed = true := by
  simp only [tightPair, Bool.or_eq_true, beq_iff_eq] at h
  rcases h with ((((rfl | rfl) | rfl) | rfl) | rfl) | rfl <;> simp [Token.closed]

/-- A space between tokens is passed over. -/
theorem lexFrom_space (cs : List Char) : lexFrom .idle (' ' :: cs) = lexFrom .idle cs := by
  have h : lexStep .idle ' ' = some ([], .idle) := by decide
  simp [lexFrom, h]

/-- The text of a row of tokens begins with the first one's. -/
theorem tokensText_cons (t : Token) (ts : List Token) : ∃ cs, tokensText (t :: ts) = t.text ++ cs := by
  cases ts with
  | nil => exact ⟨[], (List.append_nil _).symm⟩
  | cons u ts => exact ⟨_, List.append_assoc ..⟩

/-- Any row of printed tokens is read back from its text. -/
theorem lex_tokensText {ts : List Token} (h : ∀ t ∈ ts, t.printed = true) : lex (tokensText ts) = some ts := by
  unfold lex
  induction ts with
  | nil => rfl
  | cons a ts ih =>
    have ha : a.printed = true := h a (by simp)
    have ih := ih fun t ht => h t (List.mem_cons_of_mem _ ht)
    cases ts with
    | nil =>
      have hend : EndsWord [] := by simp [EndsWord]
      rw [tokensText, ← List.append_nil a.text, lexFrom_tokenText ha (.inr hend)]
      rfl
    | cons b ts =>
      rw [tokensText, List.append_assoc]
      obtain ⟨cs, hcs⟩ := tokensText_cons b ts
      by_cases hab : tightPair a b = true
      · have hends : a.closed = true ∨ EndsWord (tokensText (b :: ts)) :=
          (closed_of_tightPair hab).imp_right fun hb => hcs ▸ endsWord_text_of_closed hb cs
        rw [if_pos hab, List.nil_append, lexFrom_tokenText ha hends, ih]
        rfl
      · have hends : EndsWord (' ' :: tokensText (b :: ts)) := by
          rintro c ⟨⟩
          decide
        rw [if_neg hab, List.singleton_append, lexFrom_tokenText ha (.inr hends), lexFrom_space, ih]
        rfl

/-- A printed token's text is plain ASCII. -/
theorem tokenText_ascii {t : Token} (ht : t.printed = true) : ∀ c ∈ t.text, c.toNat < 256 := by
  have word : ∀ {c}, inWord c = true → c.toNat < 256 := by
    intro c hc
    rw [inWord_iff] at hc
    omega
  have digits : ∀ fuel n, ∀ c ∈ decimalDigits fuel n, inWord c = true := by
    have digit : ∀ d, inWord (digitChar d) = true := fun d => by rw [inWord, isDigit_digitChar, Bool.or_true]
    intro fuel n
    induction fuel generalizing n with
    | zero => simp [decimalDigits]
    | succ fuel ih =>
      rw [decimalDigits]
      split
      · simpa using digit n
      · intro c hc
        rcases List.mem_append.1 hc with hc | hc
        · exact ih _ c hc
        · exact List.mem_singleton.1 hc ▸ digit _
  cases t with
  | kw k =>
    have hk := (Bool.and_eq_true_iff.1 k.text_isName.1).2
    exact fun c hc => word (List.all_eq_true.1 hk c hc)
  | sym w => cases ht
  | num n => exact fun c hc => word (digits _ _ c hc)
  | semi | eq | plusEq | minus | lbrack | rbrack | lt | gt => simp [Token.text]

/-- The text of a row of printed tokens is plain ASCII. -/
theorem tokensText_ascii {ts : List Token} (h : ∀ t ∈ ts, t.printed = true) : ∀ c ∈ tokensText ts, c.toNat < 256 := by
  induction ts with
  | nil => simp [tokensText]
  | cons a ts ih =>
    have ha := tokenText_ascii (h a (by simp))
    have ih := ih fun t ht => h t (List.mem_cons_of_mem _ ht)
    cases ts with
    | nil => exact ha
    | cons b ts =>
      intro c hc
      simp only [tokensText, List.mem_append] at hc
      rcases hc with (hc | hc) | hc
      · exact ha c hc
      · split at hc
        · cases hc
        · simp [List.mem_singleton.1 hc]
      · exact ih c hc

/-! ## The parser -/

/-- An operation is written in printed tokens and without a separator. -/
theorem Instr.tokens_plain (i : Instr) : ∀ t ∈ i.tokens, t.printed = true ∧ t ≠ .semi := by
  cases i with
  | spAdd n =>
    rw [Instr.tokens]
    split <;> simp [Token.printed]
  | _ => simp [Instr.tokens, Token.printed]

/-- The tokens of any operation read back as it (R92); an increment's sign is a token of its own. -/
theorem parseOp_tokens (i : Instr) : parseOp [] i.tokens = .op i := by
  cases i with
  | spAdd n => exact Laws.ParsesBack.spAdd n
  | _ => rfl

/-- A row without a separator is one side; one with a separator is split there. -/
theorem splitSemi_of_not_mem {ts : List Token} (h : ∀ t ∈ ts, t ≠ .semi) (r : List Token) :
    splitSemi ts = (ts, none) ∧ splitSemi (ts ++ .semi :: r) = (ts, some r) := by
  induction ts with
  | nil => exact ⟨rfl, rfl⟩
  | cons t ts ih =>
    have ht : t ≠ .semi := h t (by simp)
    obtain ⟨ih1, ih2⟩ := ih fun u hu => h u (List.mem_cons_of_mem _ hu)
    constructor
    · rw [splitSemi, ih1]
      exact ht
    · rw [List.cons_append, splitSemi, ih2]
      exact ht

/-- The tokens of any line read back as it (R81, R82). -/
theorem parseLine_tokens (l : Line) : parseLine [] l.tokens = .line l := by
  obtain ⟨a, b⟩ := l
  have ha : ∀ t ∈ a.tokens, t ≠ .semi := fun t ht => (a.tokens_plain t ht).2
  cases b with
  | none =>
    have h := (splitSemi_of_not_mem ha []).1
    simp [parseLine, Line.tokens, h, parseOp_tokens]
  | some b =>
    have h := (splitSemi_of_not_mem ha b.tokens).2
    have hb : Token.semi ∉ b.tokens := fun hm => (b.tokens_plain _ hm).2 rfl
    simp [parseLine, Line.tokens, h, hb, parseOp_tokens]

/-- A line is written in printed tokens. -/
theorem Line.tokens_printed (l : Line) : ∀ t ∈ l.tokens, t.printed = true := by
  obtain ⟨a, b⟩ := l
  cases b with
  | none => exact fun t ht => (a.tokens_plain t ht).1
  | some b =>
    intro t ht
    simp only [Line.tokens, List.mem_append, List.mem_cons] at ht
    rcases ht with ht | rfl | ht
    · exact (a.tokens_plain t ht).1
    · rfl
    · exact (b.tokens_plain t ht).1

/-! ## The statements -/

/-- Settles O32: the bytes give the characters back, the characters the tokens, and the tokens the line. -/
theorem encodedLineDecodes : Obligations.EncodedLineDecodes := by
  intro l
  have hp := l.tokens_printed
  rw [decode, decodeWith, encodeLine, charsOf_bytesOf (tokensText_ascii hp), lex_tokensText hp]
  exact parseLine_tokens l

/-- Settles O30: the text decodes to the line itself, and admission then names its defect. -/
theorem inadmissibleTextRefused : Obligations.InadmissibleTextRefused := by
  intro l d h
  rw [admitText, encodedLineDecodes l]
  simp [h]

/-- Settles O33: each of the six is a fixed text, read character by character. -/
theorem sourceTextsDecode : Obligations.SourceTextsDecode := by
  unfold Obligations.SourceTextsDecode
  decide

end Sys2Proof
end

section
/-! Proofs about programs: what admission makes sure of (30_encoding.md R93, 93_implementation_defined.md U12). -/

namespace Sys2Proof.Machine

/-- What a list has at a key stands in the list. -/
theorem mem_of_lookupAt {α : Type} {l : List (Nat × α)} {a : Nat} {x : α} (h : lookupAt l a = some x) : (a, x) ∈ l := by
  induction l with
  | nil => cases h
  | cons e l ih =>
    obtain ⟨b, y⟩ := e
    rw [lookupAt] at h
    split at h
    · next hab =>
      cases h
      simp [hab]
    · exact List.mem_cons_of_mem _ (ih h)

/-- In an admitted program every line ends before any line after it starts. -/
theorem programDefect_pairwise {p : Params} {pm : List (Nat × Placed)} (h : programDefect p pm = none) :
    pm.Pairwise fun e f => e.1 + e.2.size ≤ f.1 := by
  induction pm with
  | nil => exact .nil
  | cons e rest ih =>
    obtain ⟨a, l⟩ := e
    simp only [programDefect] at h
    split at h
    · cases h
    split at h
    · cases h
    cases rest with
    | nil => simp
    | cons f rest =>
      obtain ⟨b, q⟩ := f
      simp only at h
      split at h
      case isFalse => cases h
      next hab =>
      have ih := ih h
      refine List.pairwise_cons.2 ⟨fun g hg => ?_, ih⟩
      obtain rfl | hg := List.mem_cons.1 hg
      · exact hab
      · have hbg : b + q.size ≤ g.1 := (List.pairwise_cons.1 ih).1 g hg
        show a + l.size ≤ g.1
        omega

/-- In an admitted program no line starts inside another. -/
theorem not_inside_of_admitted {p : Params} {pm : List (Nat × Placed)} (h : programDefect p pm = none) {a : Nat}
    {l : Placed} (hl : (a, l) ∈ pm) : ∀ e ∈ pm, ¬ (a < e.1 ∧ e.1 < a + l.size) := by
  intro e he hin
  obtain ⟨before, after, rfl⟩ := List.append_of_mem hl
  have hp := programDefect_pairwise h
  rw [List.pairwise_append, List.pairwise_cons] at hp
  obtain ⟨-, ⟨hafter, -⟩, hbefore⟩ := hp
  rcases List.mem_append.1 he with he | he
  · have hends : e.1 + e.2.size ≤ a := hbefore e he _ List.mem_cons_self
    omega
  · rcases List.mem_cons.1 he with rfl | he
    · omega
    · have hstarts : a + l.size ≤ e.1 := hafter e he
      omega

/-- A line of an admitted program, its last unit included, lies in the PCW-bit program memory. -/
theorem end_le_of_admitted {p : Params} (hlaw : p.lawful = true) {pm : List (Nat × Placed)}
    (h : programDefect p pm = none) {a : Nat} {l : Placed} (hl : (a, l) ∈ pm) : a + l.size ≤ 2 ^ p.pcw := by
  obtain ⟨hd, hend⟩ := programDefect_none h _ hl
  have hpos : 0 < l.size := Placed.size_pos hd
  have hlt : a + l.size - 1 < 2 ^ p.pcw := (Params.inProgramMemory_iff hlaw).1 hend
  omega

/-- The address of a line of an admitted program is one of PCW bits. -/
theorem lt_of_lineAt {s : State} (hlaw : s.par.lawful = true) (h : programDefect s.par s.pm = none) {a : Nat}
    (hl : (s.lineAt a).isSome = true) : a < 2 ^ s.par.pcw := by
  obtain ⟨l, hl⟩ := Option.isSome_iff_exists.1 hl
  have hmem : (a, l) ∈ s.pm := mem_of_lookupAt hl
  have hpos : 0 < l.size := Placed.size_pos (programDefect_none h _ hmem).1
  have hend := end_le_of_admitted hlaw h hmem
  omega

/-- A program with a line that is not admitted has a defect. -/
theorem programDefect_of_mem {p : Params} {pm : List (Nat × Placed)} (h : ∃ e ∈ pm, e.2.defect ≠ none) :
    ∃ d, programDefect p pm = some d := by
  obtain ⟨e, he, hd⟩ := h
  cases hp : programDefect p pm with
  | none => exact absurd (programDefect_none hp e he).1 hd
  | some d => exact ⟨d, rfl⟩

/-- Settles O31: loading answers for an admitted program alone, whose lines do not overlap and end in range. -/
theorem admittedProgramHasOnlyAdmittedLines : Obligations.AdmittedProgramHasOnlyAdmittedLines := by
  intro s t pm a p hlaw hload hline
  obtain ⟨hd, rfl⟩ := State.loadProgram_next.1 hload
  have hmem : (a, p) ∈ pm := mem_of_lookupAt hline
  exact ⟨(programDefect_none hd _ hmem).1, not_inside_of_admitted hd hmem, end_le_of_admitted hlaw hd hmem, rfl⟩

end Sys2Proof.Machine
end

section
/-! Proofs about which request can be accepted (60_exceptions.md R176, R179). -/

namespace Sys2Proof.Machine

open Claims

/-- The lowest input of a set is the member with none below it. -/
theorem lowestInput_eq_some {m : IrqLines} {k : Fin 15} :
    lowestInput m = some k ↔ m.getLsbD k = true ∧ ∀ j < k, m.getLsbD j = false := by
  rw [lowestInput, List.find?_eq_some_iff_getElem]
  refine and_congr_right fun _ => ⟨?_, fun h => ⟨k, by simp, by simp, fun j hj => ?_⟩⟩
  · rintro ⟨i, hi, hik, h⟩ j hj
    have hij : j.val < i := by
      rw [List.getElem_finRange] at hik
      have hv : i = k.val := congrArg Fin.val hik
      omega
    simpa using h j hij
  · have hj' := h ⟨j, by omega⟩ hj
    simpa using hj'

/-- A set without a lowest input is empty. -/
theorem lowestInput_eq_none {m : IrqLines} : lowestInput m = none ↔ m = 0 := by
  rw [lowestInput, List.find?_eq_none]
  constructor
  · intro h
    exact BitVec.eq_of_getLsbD_eq fun i hi => by simpa using h ⟨i, hi⟩ (List.mem_finRange _)
  · rintro rfl
    simp

theorem State.getLsbD_eligNow (s : State) (k : Fin 15) : s.eligNow.getLsbD k = true ↔ Eligible s k := by
  simp [State.eligNow, Eligible]

theorem State.getLsbD_eligWin (s : State) (k : Fin 15) : s.eligWin.getLsbD k = true ↔ EligibleInWindow s k := by
  simp [State.eligWin, EligibleInWindow]

/-- The normal way of R176 is the model's normal choice. -/
theorem State.normalChoice_eq_some {s : State} {k : Fin 15} : s.normalChoice = some k ↔ NormalWay s k := by
  unfold State.normalChoice NormalWay
  cases s.sr.ie
  · simp
  · simp [lowestInput_eq_some, ← State.getLsbD_eligNow]

/-- The stale way of R176 is the model's stale choice. -/
theorem State.staleChoice_eq_some {s : State} {k : Fin 15} : s.staleChoice = some k ↔ StaleWay s k := by
  unfold State.staleChoice StaleWay
  rw [← Bool.or_eq_true]
  cases s.sr.ie || s.iePrev
  · simp
  · simp [lowestInput_eq_some, ← State.getLsbD_eligWin]

/-- Settles O39: the run state and the two choices are what the model asks for, and each choice is its way of R176. -/
theorem acceptanceCondition : Obligations.AcceptanceCondition := by
  intro s k
  simp only [State.mayAccept, Bool.and_eq_true, Bool.or_eq_true, decide_eq_true_eq, beq_iff_eq,
    State.normalChoice_eq_some, State.staleChoice_eq_some]

/-- With IE clear, now and before the last line, no request can be accepted. -/
theorem State.mayAccept_of_disabled {s : State} (hie : s.sr.ie = false) (hprev : s.iePrev = false) (k : Fin 15) :
    s.mayAccept k = false := by
  simp [State.mayAccept, State.normalChoice, State.staleChoice, hie, hprev]

/-- Settles O38: with IE set the normal choice is the lowest eligible input; entry clears IE and closes the window. -/
theorem lowestInputHasPriority : Obligations.LowestInputHasPriority := by
  refine ⟨fun m => ⟨fun k => lowestInput_eq_some, lowestInput_eq_none⟩, ?_, fun s j k rest =>
    State.mayAccept_of_disabled rfl rfl j⟩
  rintro s hie ⟨j, hj⟩
  cases hc : s.normalChoice with
  | none =>
    have hlow : lowestInput s.eligNow = none := by simpa [State.normalChoice, hie] using hc
    rw [← State.getLsbD_eligNow, lowestInput_eq_none.1 hlow] at hj
    simp at hj
  | some k =>
    obtain ⟨-, hk, hlower⟩ := State.normalChoice_eq_some.1 hc
    exact ⟨k, rfl, hk, hlower⟩

end Sys2Proof.Machine
end

section
/-! Proofs about a step of the core: the line it runs, the request it accepts, and where it is stuck (20_memory.md R62,
60_exceptions.md R176 to R186). -/

namespace Sys2Proof.Machine

open Claims

/-- The move the next step makes, and the agenda it leaves (log entry 2). -/
def State.NextMove (s : State) (m : Move) (rest : List Move) : Prop :=
  s.agenda = m :: rest ∨ s.agenda = [] ∧ rest = [] ∧ m = s.ownMove

theorem State.turn_of_nextMove {s : State} {m : Move} {rest : List Move} (h : s.NextMove m rest) :
    s.turn = (s.startTurn rest).perform m := by
  obtain h | ⟨h, rfl, rfl⟩ := h
  · exact State.turn_cons h
  · exact State.turn_nil h

/-- The core's own move in a running core: the request the normal way accepts, or else the next line (R177). -/
theorem State.ownMove_of_running {s : State} (h : s.run = .running) :
    s.ownMove = (s.normalChoice.map Move.accept).getD .line := by
  unfold State.ownMove
  rw [h]
  cases s.normalChoice <;> rfl

/-- A move by which the program goes on: a line, or an acceptance that R176 allows. -/
def State.CoreMove (s : State) (m : Move) : Prop := m = .line ∨ ∃ k, m = .accept k ∧ s.mayAccept k = true

/-- In a running core the turn of a line is the fetch. -/
theorem State.turn_line {s : State} {rest : List Move} (hr : s.run = .running) (hn : s.NextMove .line rest) :
    s.turn = (s.startTurn rest).passBoundary.fetch := by
  rw [State.turn_of_nextMove hn]
  exact if_pos hr

/-- In a running core the turn of an acceptance R176 allows is the entry, at a line. -/
theorem State.turn_accept {s : State} {k : Fin 15} {rest : List Move} (hm : s.mayAccept k = true)
    (hn : s.NextMove (.accept k) rest) :
    s.turn = (s.startTurn rest).atLine fun _ => .done (.next ((s.startTurn rest).acceptInterrupt k)) := by
  have hr : (s.startTurn rest).run = .running := ((acceptanceCondition s k).1 hm).1
  rw [State.turn_of_nextMove hn, State.perform, State.holdWindow_of_running hr]
  exact if_pos hm

/-- Both are a step at the line PC is at. -/
theorem State.turn_of_coreMove {s : State} {m : Move} {rest : List Move} (hr : s.run = .running)
    (hn : s.NextMove m rest) (hc : s.CoreMove m) : ∃ k, s.turn = s.atLine k := by
  obtain rfl | ⟨k, rfl, hm⟩ := hc
  · exact ⟨_, State.turn_line hr hn⟩
  · exact ⟨_, State.turn_accept hm hn⟩

/-- In a program that is not admitted the core is refused under the defect's name (log entry 10). -/
theorem step_of_programDefect {s : State} {m : Move} {rest : List Move} {d : Defect} (hr : s.run = .running)
    (hn : s.NextMove m rest) (hc : s.CoreMove m) (hd : programDefect s.par s.pm = some d) :
    step s = .refused (.notAdmitted d) := by
  obtain ⟨k, hk⟩ := State.turn_of_coreMove hr hn hc
  simp [step, hk, State.atLine, hd]

/-- At a PC that is at no operation the core is stuck (R62; log entry 12). -/
theorem step_of_no_operation {s : State} {m : Move} {rest : List Move} (hr : s.run = .running)
    (hn : s.NextMove m rest) (hc : s.CoreMove m) (hd : programDefect s.par s.pm = none)
    (ho : s.operationAt s.pc = none) : step s = .fault .fetchOutsideProgram := by
  obtain ⟨k, hk⟩ := State.turn_of_coreMove hr hn hc
  simp [step, hk, State.atLine, hd, ho]

/-- A line is its instruction executed, where the line after it is there if it is used (10_state.md R20). -/
theorem step_line {s : State} {p : Placed} {i : Instr} {rest : List Move} (hp : AtOperation s p)
    (hi : p.line.op = some i) (hnext : Instr.usesNext i = true → (s.lineAt (s.pc + p.size)).isSome = true)
    (hn : s.NextMove .line rest) : step s = exec i (Executing s p.size rest) := by
  obtain ⟨hr, hd, ho⟩ := hp
  have hf : s.turn = .execute i (Executing s p.size rest) := by
    rw [State.turn_line hr hn]
    exact State.fetch_execute.2 ⟨hd, p, ho, hi, hnext, rfl⟩
  simp [step, hf]

/-- A line that uses a next line that is not there is stuck (10_state.md R20). -/
theorem step_line_of_no_next {s : State} {p : Placed} {i : Instr} {rest : List Move} (hp : AtOperation s p)
    (hi : p.line.op = some i) (hu : Instr.usesNext i = true) (hl : s.lineAt (s.pc + p.size) = none)
    (hn : s.NextMove .line rest) : step s = .fault .fetchOutsideProgram := by
  obtain ⟨hr, hd, ho⟩ := hp
  have hl : ((s.startTurn rest).passBoundary).lineAt (s.pc + p.size) = none := hl
  have hf : s.turn = .done (.fault .fetchOutsideProgram) := by
    rw [State.turn_line hr hn, State.fetch, State.atLine_of (s := (s.startTurn rest).passBoundary) hd ho]
    simp [hi, hu, hl]
  simp [step, hf]

/-- The entry step in a state whose turn has begun is the statement's `Entered`. -/
theorem State.acceptInterrupt_startTurn (s : State) (k : Fin 15) (rest : List Move) :
    (s.startTurn rest).acceptInterrupt k = Entered s k rest := by
  simp [State.acceptInterrupt, State.takeInterrupt, State.pulseIack, State.startTurn, StatusReg.enter, Entered]

/-- An acceptance R176 allows is the entry, where PC is at an operation (R180). -/
theorem step_accept {s : State} {p : Placed} {k : Fin 15} {rest : List Move} (hp : AtOperation s p)
    (hm : s.mayAccept k = true) (hn : s.NextMove (.accept k) rest) : step s = .next (Entered s k rest) := by
  obtain ⟨-, hd, ho⟩ := hp
  have ht : s.turn = .done (.next (Entered s k rest)) := by
    rw [State.turn_accept hm hn, State.atLine_of (s := s.startTurn rest) hd ho, State.acceptInterrupt_startTurn]
  simp [step, ht]

/-- What answers a next state by an acceptance R176 allows is the entry. -/
theorem step_accept_next {s t : State} {k : Fin 15} {rest : List Move} (hm : s.mayAccept k = true)
    (hn : s.NextMove (.accept k) rest) (h : step s = .next t) : t = Entered s k rest := by
  have hr : s.run = .running := ((acceptanceCondition s k).1 hm).1
  have hc : s.CoreMove (.accept k) := .inr ⟨k, rfl, hm⟩
  cases hd : programDefect s.par s.pm with
  | some d =>
    rw [step_of_programDefect hr hn hc hd] at h
    cases h
  | none =>
    cases ho : s.operationAt s.pc with
    | none =>
      rw [step_of_no_operation hr hn hc hd ho] at h
      cases h
    | some p =>
      rw [step_accept ⟨hr, hd, ho⟩ hm hn] at h
      exact (Host.Outcome.next.inj h).symm

/-- Settles O34: a next move that is a line, named or the core's own, is the line's instruction executed. -/
theorem stepRunsTheLineAtPc : Obligations.StepRunsTheLineAtPc := by
  intro s p i
  refine ⟨fun hl => by simp [State.operationAt, hl], fun hp hi hnext => ⟨fun rest ha => ?_, fun ha hno => ?_⟩⟩
  · exact step_line hp hi hnext (.inl ha)
  · have hnone : s.normalChoice = none :=
      Option.eq_none_iff_forall_not_mem.2 fun k hk => hno k (State.normalChoice_eq_some.1 hk)
    have hown : s.ownMove = .line := by rw [State.ownMove_of_running hp.1, hnone]; rfl
    exact step_line hp hi hnext (.inr ⟨ha, rfl, hown.symm⟩)

/-- Settles O40: a next move that accepts, named or the core's own, is the entry. -/
theorem acceptedInterruptEnters : Obligations.AcceptedInterruptEnters := by
  refine fun s k p hp => ⟨fun rest ha hway => ?_, fun ha hway => ?_⟩
  · exact step_accept hp ((acceptanceCondition s k).2 ⟨hp.1, hway⟩) (.inl ha)
  · have hown : s.ownMove = .accept k := by
      rw [State.ownMove_of_running hp.1, State.normalChoice_eq_some.2 hway]; rfl
    exact step_accept hp ((acceptanceCondition s k).2 ⟨hp.1, .inl hway⟩) (.inr ⟨ha, rfl, hown.symm⟩)

/-- Settles O36: no operation at PC stops line and acceptance, no next line stops a line that uses it; and the `nop`
inside a `sint` line is an operation only after a return, and only where SintReturn can lead there. -/
theorem fetchOutsideTheProgramIsStuck : Obligations.FetchOutsideTheProgramIsStuck := by
  refine fun s rest hr hd => ⟨fun ho => ⟨fun ha => ?_, fun k ha hway => ?_⟩, fun p i ho hi hu hl ha => ?_, ?_⟩
  · exact step_of_no_operation hr (.inl ha) (.inl rfl) hd ho
  · exact step_of_no_operation hr (.inl ha) (.inr ⟨k, rfl, (acceptanceCondition s k).2 ⟨hr, hway⟩⟩) hd ho
  · exact step_line_of_no_next ⟨hr, hd, ho⟩ hi hu hl (.inl ha)
  · rintro (hline | hret)
    · simp [State.operationAt, State.nopBeside, hline]
    · exact State.operationAt_of_not_returned hret _

/-- Settles O29: a line that is not admitted is a defect of its program, which loading and the core's steps answer. -/
theorem inadmissibleLineRefused : Obligations.InadmissibleLineRefused := by
  refine ⟨fun s pm hbad => ?_, fun s a p d hd => ?_, fun s d rest hr hd => ⟨fun ha => ?_, fun k ha hway => ?_⟩⟩
  · obtain ⟨d, hd⟩ := programDefect_of_mem (p := s.par) hbad
    exact ⟨d, by simp [State.loadProgram, hd]⟩
  · have hpd : programDefect s.par [(a, p)] = some d := by simp [programDefect, hd]
    simp [State.loadProgram, hpd]
  · exact step_of_programDefect hr (.inl ha) (.inl rfl) hd
  · exact step_of_programDefect hr (.inl ha) (.inr ⟨k, rfl, (acceptanceCondition s k).2 ⟨hr, hway⟩⟩) hd

/-- A text decoded to a table line is one the spec admits. -/
theorem defect_of_decodeTableLine {nbits w : Nat} {l : Line} (h : decodeTableLine nbits w = some l) :
    l.defect = none := by
  unfold decodeTableLine admitText at h
  cases hd : decode (wordBytes ((nbits + 7) / 8) w) with
  | rejected e => simp [hd] at h
  | line l' =>
    cases hdef : l'.defect with
    | none =>
      have hl : l' = l := by simpa [hd, hdef] using h
      exact hl ▸ hdef
    | some d => simp [hd, hdef] at h

/-- An admitted line of two units with a `nop` after it is an admitted program, where there is room for both. -/
theorem programDefect_lineProgram {p : Params} {a : Nat} {l : Line} (hl : l.defect = none)
    (ha : Params.inProgramMemory p (a + 2) = true) : programDefect p (lineProgram a l) = none := by
  have hsize : l.sizeAdmitted 2 = true := by
    unfold Line.sizeAdmitted
    split <;> rfl
  have hline : Placed.defect ⟨l, 2⟩ = none := by simp [Placed.defect, hl, hsize]
  have hnop : Placed.defect ⟨⟨.nop, none⟩, 1⟩ = none := by decide
  have hin : Params.inProgramMemory p (a + 1) = true := by
    simp only [Params.inProgramMemory, Bool.or_eq_true, decide_eq_true_eq] at ha ⊢
    omega
  simp [lineProgram, programDefect, hline, hnop, hin, ha]

/-- Settles O35: the text's line, with the `nop` after it, is an admitted program, and the step runs the line at PC. -/
theorem decodedTextRuns : Obligations.DecodedTextRuns := by
  intro s nbits w l i hdec hop hroom
  refine ⟨by simp [decodeTableWord, hdec, hop], ?_⟩
  have hd := programDefect_lineProgram (defect_of_decodeTableLine hdec) hroom
  have hplaced : s.withFetchWord nbits w =
      { s with pm := lineProgram s.pc l, run := .running, agenda := .line :: s.agenda } := by
    simp [State.withFetchWord, hdec, State.placeForFetch, State.loadProgram, hd]
  rw [hplaced]
  refine step_line (p := ⟨l, 2⟩) ⟨rfl, hd, ?_⟩ hop (fun _ => ?_) (.inl rfl)
  · simp [State.operationAt, State.lineAt, lineProgram, lookupAt]
  · simp [State.lineAt, lineProgram, lookupAt]

end Sys2Proof.Machine
end

section
/-! Proofs about what an instruction leaves as it was (10_state.md section 8). -/

namespace Sys2Proof.Machine

open Claims

/-- Whether an instruction is a software interrupt, which writes the hidden window and the acknowledges too. -/
def isSint : Instr → Bool
  | .sint _ => true
  | _ => false

/-- `t`, but with every register that instruction `i` does not write as `s` has it: the "written by" column of
10_state.md section 8, and for the hidden window, the acknowledges and the history the instructions that write them. -/
def keepUnwritten (i : Instr) (s t : State) : State :=
  { s with
    pc := t.pc
    returned := t.returned
    ilr := bif writesIlr i then t.ilr else s.ilr
    sr :=
      { ie := bif writesIe i then t.sr.ie else s.sr.ie
        v := bif writesWholeSr i then t.sr.v else s.sr.v
        n := bif writesWholeSr i then t.sr.n else s.sr.n
        z := bif writesWholeSr i then t.sr.z else s.sr.z
        srmeOther := bif writesSrmeOther i then t.sr.srmeOther else s.sr.srmeOther
        ie0 := bif writesBackup i then t.sr.ie0 else s.sr.ie0
        other0 := bif writesBackup i then t.sr.other0 else s.sr.other0
        rest := bif writesWholeSr i then t.sr.rest else s.sr.rest }
    imsk := bif writesImsk i then t.imsk else s.imsk
    sp := bif writesSp i then t.sp else s.sp
    lcp := bif writesLcp i then t.lcp else s.lcp
    loops := bif writesLoops i then t.loops else s.loops
    regs := bif writesRegs i then t.regs else s.regs
    mem := bif writesMemory i then t.mem else s.mem
    run := bif writesRun i then t.run else s.run
    iackOut := bif isSint i then t.iackOut else s.iackOut
    iePrev := bif isSint i then t.iePrev else s.iePrev
    imskPrev := bif isSint i then t.imskPrev else s.imskPrev
    history := bif isSint i || writesMemory i || writesRun i then t.history else s.history
    draws := bif isSint i || writesMemory i then t.draws else s.draws }

/-- What an instruction does not write is as it was: the split is along the instructions, each of whose next states is
known. -/
theorem exec_frame {i : Instr} {s t : State} (h : exec i s = .next t) : t = keepUnwritten i s t := by
  replace h := exec_next h
  cases i <;> simp only [ExecAnswers] at h
  case sint v =>
    obtain ⟨-, -, rfl⟩ := h
    obtain h | ⟨-, m, h⟩ := s.softwareInterrupt_cases v <;> obtain he | he := s.softwareEntry_cases v <;> rw [h, he] <;>
      rfl
  case ldLcp o => obtain ⟨-, w, hw, -, rfl⟩ := h; rfl
  case ldLc o | ldLstk o | ldLpa o => obtain ⟨-, i, w, -, -, rfl⟩ := h; rfl
  case ldSr o | ldIlr o => obtain ⟨-, w, -, rfl⟩ := h; rfl
  case stLcp o | stLc o | stLstk o | stLpa o | stSr o | stIlr o => obtain ⟨-, -, w, rfl⟩ := h; rfl
  case jp T | ieSet u | imskSet m | lcpSet i => obtain ⟨-, rfl⟩ := h; rfl
  all_goals
    subst h
    rfl

/-- Settles O52: each clause is one field of the frame. -/
theorem onlyTheseInstructionsWrite : Obligations.OnlyTheseInstructionsWrite := by
  intro i s t h
  have hf := exec_frame h
  have field {α : Type} (f : State → α) : f t = f (keepUnwritten i s t) := congrArg f hf
  refine ⟨fun hw => ?_, fun hw => ?_, fun hw => ?_, fun hw => ?_, fun hw => ?_, fun hw => ?_, fun hw => ?_,
    fun hw => ?_, fun hw => ?_, fun hw => ?_, fun hw => ?_, fun hw => ?_, ?_⟩
  · simpa [keepUnwritten, hw] using field State.ilr
  · simpa [keepUnwritten, hw] using field (·.sr.ie)
  · simpa [keepUnwritten, hw] using field (·.sr.srmeOther)
  · simpa [keepUnwritten, hw] using field fun t => (t.sr.ie0, t.sr.other0)
  · simpa [keepUnwritten, hw] using field fun t => (t.sr.v, t.sr.n, t.sr.z, t.sr.rest)
  · simpa [keepUnwritten, hw] using field State.imsk
  · simpa [keepUnwritten, hw] using field State.sp
  · simpa [keepUnwritten, hw] using field State.lcp
  · simpa [keepUnwritten, hw] using field State.loops
  · simpa [keepUnwritten, hw] using field State.regs
  · simpa [keepUnwritten, hw] using field State.mem
  · simpa [keepUnwritten, hw] using field State.run
  · exact ⟨field State.irqInp, field State.resume, field State.agenda⟩

end Sys2Proof.Machine
end

section
/-! Proofs about moves and steps: the program no step changes, the core that does not run, the wake, and reset
(60_exceptions.md section 8, 70_reset_and_hazards.md section 1). -/

namespace Sys2Proof.Machine

open Claims

/-- A step that answers a next state ran the line at PC, or made a move that executes nothing: `step_cases` in the words
the statements use. -/
theorem step_line_or_move {s t : State} (h : step s = .next t) :
    ∃ m rest, s.NextMove m rest ∧
      ((∃ p i, m = .line ∧ AtOperation s p ∧ p.line.op = some i ∧
          (Instr.usesNext i = true → (s.lineAt (s.pc + p.size)).isSome = true) ∧
          exec i (Executing s p.size rest) = .next t) ∨
        (s.startTurn rest).perform m = .done (.next t)) := by
  obtain ⟨m, rest, hn, ⟨i, p, rfl, hr, hd, ho, hi, hu, he⟩ | hdone⟩ := step_cases h
  · exact ⟨.line, rest, hn, .inl ⟨p, i, rfl, ⟨hr, hd, ho⟩, hi, hu, he⟩⟩
  · exact ⟨m, rest, hn, .inr hdone⟩

/-- The step of a move that executes nothing is what the move answers. -/
theorem step_of_perform {s t : State} {m : Move} {rest : List Move} (hn : s.NextMove m rest)
    (h : (s.startTurn rest).perform m = .done (.next t)) : step s = .next t :=
  step_next.2 (.inr ((State.turn_of_nextMove hn).trans h))

theorem State.nextMove_exists (s : State) : ∃ m rest, s.NextMove m rest := by
  obtain ⟨m, rest, -, hn⟩ := s.turn_cases
  exact ⟨m, rest, hn⟩

/-- A move that is not the agenda's first is the core's own, which is no hardware reset and no debugger's write. -/
theorem State.NextMove.head_or_own {s : State} {m : Move} {rest : List Move} (h : s.NextMove m rest) :
    s.agenda.head? = some m ∨ s.agenda = [] ∧ m = s.ownMove := by
  obtain h | ⟨h, -, rfl⟩ := h
  · exact .inl (by rw [h]; rfl)
  · exact .inr ⟨h, rfl⟩

/-- By itself the core accepts, runs a line, wakes, or ends a wait, and nothing else. -/
theorem State.ownMove_cases (s : State) :
    (∃ k, s.ownMove = .accept k) ∨ s.ownMove = .line ∨ s.ownMove = .wake ∨ s.ownMove = .waitLeave := by
  unfold State.ownMove
  split
  · split
    · exact .inl ⟨_, rfl⟩
    · exact .inr (.inl rfl)
  · split
    · exact .inr (.inr (.inl rfl))
    · exact .inr (.inl rfl)
  · exact .inr (.inl rfl)
  · exact .inr (.inr (.inr rfl))

/-- A hardware reset is the agenda's, never the core's own. -/
theorem State.NextMove.head_hardReset {s : State} {rest : List Move} (h : s.NextMove .hardReset rest) :
    s.agenda.head? = some .hardReset := by
  obtain h | ⟨-, h⟩ := h.head_or_own
  · exact h
  · obtain ⟨k, hk⟩ | hk | hk | hk := s.ownMove_cases <;> rw [hk] at h <;> cases h

/-- So is a debugger's write. -/
theorem State.NextMove.head_debugWrite {s : State} {d : DebugWrite} {rest : List Move}
    (h : s.NextMove (.debugWrite d) rest) : s.agenda.head? = some (.debugWrite d) := by
  obtain h | ⟨-, h⟩ := h.head_or_own
  · exact h
  · obtain ⟨k, hk⟩ | hk | hk | hk := s.ownMove_cases <;> rw [hk] at h <;> cases h

/-! ## The program and the open parameters -/

@[simp] theorem State.debugWrite_par (s : State) (d : DebugWrite) : (s.debugWrite d).par = s.par := by cases d <;> rfl
@[simp] theorem State.debugWrite_pm (s : State) (d : DebugWrite) : (s.debugWrite d).pm = s.pm := by cases d <;> rfl

theorem exec_sameProgram {i : Instr} {s t : State} (h : exec i s = .next t) : SameProgram s t := by
  have hf := exec_frame h
  exact ⟨(congrArg State.pm hf).trans rfl, (congrArg State.par hf).trans rfl⟩

/-- Settles O53: no instruction writes program memory or the parameters, and no move does. -/
theorem noStepChangesTheProgram : Obligations.NoStepChangesTheProgram := by
  intro s t h
  obtain ⟨m, rest, -, ⟨p, i, -, -, -, -, he⟩ | hdone⟩ := step_line_or_move h
  · have hsame : SameProgram (Executing s p.size rest) t := exec_sameProgram he
    exact hsame
  · obtain rfl | ⟨irq, r, rfl⟩ | ⟨-, rfl⟩ | ⟨a, b, -, -, rfl⟩ | ⟨d, -, -, rfl⟩ | ⟨k, -, -, -, -, rfl⟩ | ⟨-, -, rfl⟩ :=
      State.perform_done hdone
    · simp [SameProgram]
    · simp [SameProgram]
    · simp [SameProgram]
    · simp [SameProgram]
    · simp [SameProgram]
    · simp [SameProgram, State.acceptInterrupt]
    · simp [SameProgram]

/-! ## Registers and memories -/

theorem sameCore_holdWindow (s : State) (rest : List Move) : SameCore s (s.startTurn rest).holdWindow := by
  simp [SameCore]

/-- In a core that does not run, a move that is no reset and no debugger's write leaves registers and memories alone. It
records nothing and does not end power-down, unless it is a wake. -/
theorem State.perform_idle {s t : State} {m : Move} {rest : List Move}
    (h : (s.startTurn rest).perform m = .done (.next t)) (hreset : m ≠ .hardReset)
    (hdebug : ∀ d, m = .debugWrite d → s.run ≠ .debug) (hrun : s.run ≠ .running) :
    SameCore s t ∧ t.iackOut = 0 ∧
      (t.history = s.history ∧ (s.run = .powerDown → t.run = .powerDown) ∨
        s.mayWake = true ∧ t.history = .powerdownOut false :: s.history) := by
  obtain rfl | ⟨irq, r, rfl⟩ | ⟨rfl, -⟩ | ⟨a, b, ha, hb, rfl⟩ | ⟨d, rfl, hd, -⟩ | ⟨k, -, hk, -⟩ | ⟨-, hw, rfl⟩ :=
    State.perform_done h
  · simp [SameCore]
  · simp [SameCore]
  · exact absurd rfl hreset
  · refine ⟨by simp [SameCore], by simp, .inl ⟨by simp, fun hp => ?_⟩⟩
    have : RunState.powerDown ≠ a := ha.symm
    simp [hp, this]
  · exact absurd hd (hdebug d rfl)
  · have hr := ((acceptanceCondition _ k).1 hk).1
    simp only [State.holdWindow_run, State.startTurn_run] at hr
    exact absurd hr hrun
  · have hr : s.run = .powerDown := by
      exact of_decide_eq_true (Bool.and_eq_true_iff.1 hw).1
    refine ⟨by simp [SameCore], by simp, .inr ⟨hw, ?_⟩⟩
    simp [State.setRun, State.powerdownOut, hr]

/-- A halted core always has a next state. -/
theorem State.perform_of_not_running {s : State} (h : s.run ≠ .running) (m : Move) (rest : List Move) :
    ∃ t, (s.startTurn rest).perform m = .done (.next t) := by
  cases m with
  | accept k =>
    have hm : (s.startTurn rest).holdWindow.mayAccept k = false := by
      rw [Bool.eq_false_iff]
      intro hk
      have hr := ((acceptanceCondition _ k).1 hk).1
      simp only [State.holdWindow_run, State.startTurn_run] at hr
      exact h hr
    exact ⟨_, State.acceptTurn_next.2 (.inr ⟨hm, rfl⟩)⟩
  | line => exact ⟨_, if_neg h⟩
  | _ => exact ⟨_, rfl⟩

/-- A core that does not run answers a next state at every step, and unless it is reset or a debugger writes, registers
and memories stay. -/
theorem step_idle {s : State} (hr : s.run ≠ .running) (hreset : s.agenda.head? ≠ some .hardReset)
    (hdebug : (∃ d, s.agenda.head? = some (.debugWrite d)) → s.run ≠ .debug) :
    ∃ t, step s = .next t ∧ SameCore s t ∧ t.iackOut = 0 ∧
      (t.history = s.history ∧ (s.run = .powerDown → t.run = .powerDown) ∨
        s.mayWake = true ∧ t.history = .powerdownOut false :: s.history) := by
  obtain ⟨m, rest, hn⟩ := s.nextMove_exists
  obtain ⟨t, ht⟩ := State.perform_of_not_running hr m rest
  refine ⟨t, step_of_perform hn ht, State.perform_idle ht ?_ ?_ hr⟩
  · rintro rfl
    exact hreset hn.head_hardReset
  · rintro d rfl
    exact hdebug ⟨d, hn.head_debugWrite⟩

/-- A set of inputs is not empty exactly when it has a member. -/
theorem irqLines_ne_zero_iff {m : IrqLines} : m ≠ 0 ↔ ∃ k : Fin 15, m.getLsbD k = true := by
  rw [Ne, ← lowestInput_eq_none, ← Ne, Option.ne_none_iff_exists']
  constructor
  · rintro ⟨k, hk⟩
    exact ⟨k, (lowestInput_eq_some.1 hk).1⟩
  · rintro ⟨k, hk⟩
    cases hl : lowestInput m with
    | none =>
      rw [lowestInput_eq_none.1 hl] at hk
      simp at hk
    | some j => exact ⟨j, rfl⟩

/-- The wake that is promised: `resume`, or a request that is HIGH, unmasked and enabled (R207). -/
theorem State.wakePromised_iff {s : State} :
    s.wakePromised = true ↔ s.resume = true ∨ (s.sr.ie = true ∧ ∃ k, Eligible s k) := by
  simp only [State.wakePromised, Bool.or_eq_true, Bool.and_eq_true, bne_iff_ne, irqLines_ne_zero_iff,
    State.getLsbD_eligNow]

/-- A halted core can wake exactly where R207 allows it. -/
theorem State.mayWake_iff {s : State} : s.mayWake = true ↔ s.run = .powerDown ∧ WakeAllowed s := by
  simp only [State.mayWake, Bool.or_eq_true, Bool.and_eq_true, decide_eq_true_eq, bne_iff_ne, Bool.not_eq_true',
    State.wakePromised_iff, irqLines_ne_zero_iff, WakeAllowed, or_assoc]

/-- The wake step, where it is allowed (R207). -/
theorem step_wake {s : State} {rest : List Move} (hn : s.NextMove .wake rest) (hr : s.run = .powerDown)
    (hw : WakeAllowed s) : step s = .next (Woken s rest) := by
  refine step_of_perform hn ?_
  have hm : (s.startTurn rest).mayWake = true := State.mayWake_iff.2 ⟨hr, hw⟩
  rw [State.perform, if_pos hm]
  simp [State.setRun, State.holdWindow, State.powerdownOut, hr, State.startTurn, Woken]

/-- Settles O45: the wake move is allowed just there, and is the core's own move where the wake is promised. -/
theorem wakeFromPowerDown : Obligations.WakeFromPowerDown := by
  refine fun s hr => ⟨fun rest ha hw => step_wake (.inl ha) hr hw, fun ha hp => ?_⟩
  have hown : s.ownMove = .wake := by
    simp [State.ownMove, hr, State.wakePromised_iff.2 hp]
  exact step_wake (.inr ⟨ha, rfl, hown.symm⟩) hr (hp.imp_right .inl)

/-- Settles O46: of the moves that are no reset, a wake alone ends power-down, and only where it is allowed. -/
theorem nothingElseWakes : Obligations.NothingElseWakes := by
  intro s t hr h hne
  by_cases hreset : s.agenda.head? = some .hardReset
  · exact .inl hreset
  · right
    have hrun : s.run ≠ .running := by simp [hr]
    have hdebug : s.run ≠ .debug := by simp [hr]
    obtain ⟨t', ht', -, -, ⟨-, hstay⟩ | ⟨hw, -⟩⟩ := step_idle hrun hreset fun _ => hdebug
    · rw [ht'] at h
      cases h
      exact absurd (hstay hr) hne
    · exact (State.mayWake_iff.1 hw).2

/-- Settles O47: neither state is Running or Debug, so the step is idle. -/
theorem haltedCoreChangesNothing : Obligations.HaltedCoreChangesNothing := by
  intro s hs hreset
  have hrun : s.run ≠ .running := by rcases hs with h | h <;> simp [h]
  have hdebug : s.run ≠ .debug := by rcases hs with h | h <;> simp [h]
  obtain ⟨t, ht, hsame, hack, hhist⟩ := step_idle hrun hreset fun _ => hdebug
  refine ⟨t, ht, hsame, fun k hk => ?_, hack⟩
  obtain ⟨h, -⟩ | ⟨-, h⟩ := hhist <;> rw [h] at hk
  · exact List.cons_ne_self _ _ hk.symm
  · cases hk

@[simp] theorem State.debugWrite_history (s : State) (d : DebugWrite) : (s.debugWrite d).history = s.history := by
  cases d <;> rfl
@[simp] theorem State.debugWrite_iackOut (s : State) (d : DebugWrite) : (s.debugWrite d).iackOut = s.iackOut := by
  cases d <;> rfl

/-- Settles O48: a debugger's write records nothing; any other step is idle, and no wake is one in debug state. -/
theorem debugStateAcceptsNothing : Obligations.DebugStateAcceptsNothing := by
  intro s hr hreset
  by_cases hd : ∃ d, s.agenda.head? = some (.debugWrite d)
  · obtain ⟨d, hd⟩ := hd
    obtain ⟨rest, ha⟩ := List.head?_eq_some_iff.1 hd
    have ht : (s.startTurn rest).perform (.debugWrite d) =
        .done (.next ((s.startTurn rest).holdWindow.debugWrite d)) := by simp [State.perform, hr]
    refine ⟨_, step_of_perform (.inl ha) ht, by simp, by simp, fun hno => absurd hd (hno d)⟩
  · have hrun : s.run ≠ .running := by simp [hr]
    obtain ⟨t, ht, hsame, hack, ⟨hh, -⟩ | ⟨hw, -⟩⟩ := step_idle hrun hreset fun h => absurd h hd
    · exact ⟨t, ht, hh, hack, fun _ => hsame⟩
    · have := (State.mayWake_iff.1 hw).1
      simp [hr] at this

/-- Settles O9: `powerdown` moves on and halts, and in power-down the move of a line is idle. -/
theorem powerdownHaltsTheCore : Obligations.PowerdownHaltsTheCore := by
  refine ⟨fun s hr => ?_, fun s => by simp [State.powerdownOut], fun s rest hr ha => ?_⟩
  · simp [exec, execPowerdown, State.setRun, State.powerdownOut, hr, State.advance]
  · have ht : (s.startTurn rest).perform .line = .done (.next (s.startTurn rest).holdWindow) := by
      simp [State.perform, hr]
    exact ⟨_, step_of_perform (.inl ha) ht, sameCore_holdWindow s rest, by simp [hr], by simp⟩

/-! ## Reset -/

/-- Settles O49: the move is the reset, whose fields are those of the launch but for what D31 keeps. -/
theorem hardwareResetEffect : Obligations.HardwareResetEffect := by
  intro s rest ha
  refine ⟨(s.startTurn rest).hardReset, step_of_perform (.inl ha) rfl, ?_⟩
  simp [State.powerdownOut, Config.imskReset, StatusReg.reset]

/-- Settles O50: the launch sets each field to the value given, and lists no byte. -/
theorem resetValues : Obligations.ResetValues :=
  ⟨rfl, rfl, rfl, rfl, rfl, rfl, rfl, rfl, fun _ => rfl⟩

/-- Settles O51: the launch sets each field to 0, LCP to 4, and lists no general register. -/
theorem chosenResetValues : Obligations.ChosenResetValues := by
  refine ⟨rfl, rfl, rfl, fun i => ?_, fun _ => rfl, rfl⟩
  simp [State.loopSet, State.reset, State.launch]

end Sys2Proof.Machine
end

section
/-! Proofs of the invariants: every register within its width and the memories canonical, and the history's record of
`powerdown_out` (10_state.md sections 1 to 7). -/

namespace Sys2Proof

open Machine Claims

/-! ## Where the open parameters lie (00_scope.md R7) -/

/-- The bounds of the open parameters that the proofs lean on. -/
structure Params.Bounded (p : Params) : Prop where
  pcw : p.pcw ≤ 32
  lcpW_lower : 3 ≤ p.lcpW
  lcpW : p.lcpW ≤ 32
  lcW : p.lcW ≤ 32
  lstkW : p.lstkW ≤ 32
  lpaW : p.lpaW ≤ 32
  srLayout : srLayoutLawful p.srLayout = true
  stack : p.stackHi ≤ 2 ^ p.aw
  sintReturn : p.sintReturn ≠ .itsNop 0

/-- A lawful choice of the open parameters keeps to them. -/
theorem Params.bounded {p : Params} (h : p.lawful = true) : p.Bounded := by
  simp only [Params.lawful, Bool.and_eq_true, decide_eq_true_eq, bne_iff_ne] at h
  obtain ⟨⟨⟨⟨-, hpcw, -, hlcp3, hlcp, hlc, hlstk, hlpa⟩, hl⟩, -, -, hstack⟩, hr⟩ := h
  exact ⟨hpcw, hlcp3, hlcp, hlc, hlstk, hlpa, hl, hstack, hr⟩

/-- The first 32 addresses are addresses of program memory (00_scope.md R7). -/
theorem lt_two_pow_pcw {p : Params} (h : p.lawful = true) {a : Nat} (ha : a < 32) : a < 2 ^ p.pcw :=
  (Params.inProgramMemory_iff h).1 (by simp [Params.inProgramMemory, ha])

/-- A slot that can be accessed lies in the AW-bit address space. -/
theorem slot_lt_of_admitted {p : Params} (h : p.lawful = true) {a : Nat} (ha : Params.slotAdmitted p a = true) :
    a + 4 ≤ 2 ^ p.aw := by
  obtain ⟨-, -, hhi⟩ := Params.slotAdmitted_iff.1 ha
  have hstack := (Params.bounded h).stack
  omega

/-! ## The updates of State -/

namespace WellKept

/-- Nothing but registers, memories and parameters matters. -/
theorem of_sameCore {s t : State} (hs : WellKept s) (h : SameCore s t) (hp : t.par = s.par) : WellKept t := by
  obtain ⟨hpc, hilr, hsr, -, hsp, -, hloops, hregs, hmem, hpm⟩ := h
  constructor
  · rw [hp]; exact hs.par
  · rw [hpc, hp]; exact hs.pc
  · rw [hilr, hp]; exact hs.ilr
  · rw [hsp, hp]; exact hs.sp
  · rw [hsr, hp]; exact hs.sr
  · unfold State.loopSet; rw [hloops, hp]; exact hs.loops
  · rw [hmem]; exact hs.mem
  · rw [hregs]; exact hs.regs
  · rw [hmem, hp]; exact hs.memRange
  · rw [hpm]; exact hs.pm

variable {s : State}

theorem advance (hs : WellKept s) (hn : s.npc < 2 ^ s.par.pcw) : WellKept s.advance := { hs with pc := hn }

theorem setReg (hs : WellKept s) (r : Nat) (x : Word) : WellKept (s.setReg r x) :=
  { hs with regs := Registers.wf_setReg s r x hs.regs }

theorem setLoopSet (hs : WellKept s) (i : Fin 4) {x : LoopSet} (hx : LoopSet.fits s.par x) :
    WellKept (s.setLoopSet i x) := by
  refine { hs with loops := fun j => ?_ }
  by_cases hj : j = i
  · subst hj
    rw [State.loopSet_setLoopSet_self]
    exact hx
  · rw [State.loopSet_setLoopSet_ne s hj]
    exact hs.loops j

/-- IE is a bit every lawful layout has. -/
theorem setIe (hs : WellKept s) (u : Bool) : WellKept (s.setIe u) := by
  refine { hs with sr := StatusReg.fits_iff.2 fun b hb => ?_ }
  have hl := (Params.bounded hs.par).srLayout
  have hrest := StatusReg.fits_iff.1 hs.sr b hb
  cases b with
  | ie =>
    obtain ⟨-, ⟨hie, -⟩, -⟩ := srLayoutLawful_iff.1 hl
    have hb : s.par.srLayout.contains SrBit.ie = false := hb
    rw [hie] at hb
    cases hb
  | _ => exact hrest

theorem putSlot (hs : WellKept s) {a : Nat} (ha : Params.slotAdmitted s.par a = true) (w : Word) :
    WellKept (s.putSlot a w) := by
  refine { hs with mem := Memory.wf_writeSlot _ hs.mem _ _, memRange := fun c hc => ?_ }
  have hend := slot_lt_of_admitted hs.par ha
  obtain hc | hc := Memory.mem_writeSlot hc
  · show c.1 < 2 ^ s.par.aw
    omega
  · exact hs.memRange c hc

/-- An entry keeps every register within its width: the address saved and the vector are addresses of PCW bits. -/
theorem takeInterrupt (hs : WellKept s) {ret v : Nat} (hret : ret < 2 ^ s.par.pcw) (hv : v < 32) :
    WellKept (s.takeInterrupt ret v) := by
  have hl := (Params.bounded hs.par).srLayout
  exact { hs with pc := lt_two_pow_pcw hs.par hv, ilr := hret, sr := StatusReg.fits_enter hl hs.sr }

theorem acceptInterrupt (hs : WellKept s) (k : Fin 15) : WellKept (s.acceptInterrupt k) := by
  have hv : vecOfPin k < 32 := by
    rw [vecOfPin_eq]
    omega
  have ht := hs.takeInterrupt hs.pc hv
  exact ht.of_sameCore (by simp [SameCore, State.acceptInterrupt]) rfl

theorem returnFromInterrupt (hs : WellKept s) : WellKept s.returnFromInterrupt := by
  have hl := (Params.bounded hs.par).srLayout
  exact { hs with pc := hs.ilr, sr := StatusReg.fits_restore hl hs.sr }

theorem softwareInterrupt (hs : WellKept s) (hn : s.npc < 2 ^ s.par.pcw) {v : Nat} (hv : v ≤ 30) :
    WellKept (s.softwareInterrupt v) := by
  have hret : s.sintReturn < 2 ^ s.par.pcw := by
    obtain h | ⟨k, -, hk, h⟩ := s.sintReturn_cases <;> omega
  have hentry : WellKept (s.softwareEntry v) := by
    obtain h | h := s.softwareEntry_cases v <;> rw [h]
    · exact { hs with pc := lt_two_pow_pcw hs.par (Nat.zero_lt_succ 31) }
    · exact hs.takeInterrupt hret (by omega)
  refine hentry.of_sameCore ?_ ?_ <;> rw [State.softwareInterrupt_eq]
  simp [SameCore]

theorem hardReset (hs : WellKept s) : WellKept s.hardReset where
  par := hs.par
  pc := Nat.pow_pos (by decide)
  ilr := Nat.pow_pos (by decide)
  sp := Nat.pow_pos (by decide)
  sr := StatusReg.fits_iff.2 fun b _ => by cases b <;> simp [StatusReg.get, StatusReg.reset]
  loops i := by simp [State.loopSet, LoopSet.fits]
  mem := rfl
  regs := rfl
  memRange := nofun
  pm := hs.pm

/-- A debugger's value is cut to its register (log entry 17). -/
theorem debugWrite (hs : WellKept s) (d : DebugWrite) : WellKept (s.debugWrite d) := by
  have hmod : ∀ x w : Nat, x % 2 ^ w < 2 ^ w := fun x w => Nat.mod_lt _ (Nat.pow_pos (by decide))
  cases d with
  | pc a => exact { hs with pc := hmod a _ }
  | ilr a => exact { hs with ilr := hmod a _ }
  | sr w => exact { hs with sr := StatusReg.fits_ofImage _ w }
  | imsk m => exact { hs with }
  | sp a => exact { hs with sp := hmod a _ }
  | lcp i => exact { hs with }
  | loopSet i x =>
    have hb := Params.bounded hs.par
    exact hs.setLoopSet i ⟨lowBits_lt hb.lcW _, lowBits_lt hb.lstkW _, lowBits_lt hb.lpaW _⟩
  | reg r x => exact hs.setReg r x
  | byte a b =>
    refine { hs with mem := Memory.wf_write hs.mem _ _, memRange := fun c hc => ?_ }
    obtain hc | hc := Memory.mem_write hc
    · rw [hc]
      exact hmod a _
    · exact hs.memRange c hc

/-! ## Instructions and steps -/

/-- Every instruction keeps the invariant, where `next(a)`, if it uses it, is an address of PCW bits. -/
theorem exec (hs : WellKept s) {i : Instr} {t : State} (hn : Instr.usesNext i = true → s.npc < 2 ^ s.par.pcw)
    (h : exec i s = .next t) : WellKept t := by
  have hb := Params.bounded hs.par
  replace h := exec_next h
  cases i <;> simp only [ExecAnswers] at h
  case jp T =>
    obtain ⟨hT, rfl⟩ := h
    exact { hs with pc := (Params.inProgramMemory_iff hs.par).1 hT }
  case reti => exact h ▸ hs.returnFromInterrupt
  all_goals replace hn := hn rfl
  case sint v =>
    obtain ⟨-, hv, rfl⟩ := h
    exact hs.softwareInterrupt hn hv
  case nop => exact h ▸ hs.advance hn
  case ieSet u => exact h.2 ▸ (hs.setIe _).advance hn
  case imskSet m => exact h.2 ▸ { hs.advance hn with }
  case setInterruptMask r => exact h ▸ { hs.advance hn with }
  case getInterruptMask r | getIrqStat r => exact h ▸ (hs.setReg r _).advance hn
  case spAdd n => exact h ▸ { hs.advance hn with sp := State.spPlus_lt s n }
  case stLcp o | stLc o | stLstk o | stLpa o | stSr o | stIlr o =>
    obtain ⟨-, ha, w, rfl⟩ := h
    have hd : WellKept s.draw.2.advance := { hs.advance hn with }
    exact hd.putSlot ha w
  case ldLcp o =>
    obtain ⟨-, w, hw, -, rfl⟩ := h
    exact { hs.advance hn with }
  case ldLc o =>
    obtain ⟨-, i, w, -, -, rfl⟩ := h
    obtain ⟨-, hlstk, hlpa⟩ := hs.loops i
    have hfits : LoopSet.fits s.par { s.loopSet i with lc := unpack s.par.lcW w } := ⟨unpack_lt hb.lcW w, hlstk, hlpa⟩
    exact (hs.setLoopSet i hfits).advance hn
  case ldLstk o =>
    obtain ⟨-, i, w, -, -, rfl⟩ := h
    obtain ⟨hlc, -, hlpa⟩ := hs.loops i
    have hfits : LoopSet.fits s.par { s.loopSet i with lstk := unpack s.par.lstkW w } :=
      ⟨hlc, unpack_lt hb.lstkW w, hlpa⟩
    exact (hs.setLoopSet i hfits).advance hn
  case ldLpa o =>
    obtain ⟨-, i, w, -, -, rfl⟩ := h
    obtain ⟨hlc, hlstk, -⟩ := hs.loops i
    have hfits : LoopSet.fits s.par { s.loopSet i with lpa := unpack s.par.lpaW w } :=
      ⟨hlc, hlstk, unpack_lt hb.lpaW w⟩
    exact (hs.setLoopSet i hfits).advance hn
  case ldSr o =>
    obtain ⟨-, w, -, rfl⟩ := h
    exact { hs.advance hn with sr := StatusReg.fits_ofImage _ _ }
  case ldIlr o =>
    obtain ⟨-, w, -, rfl⟩ := h
    exact { hs.advance hn with ilr := unpack_lt hb.pcw w }
  case lcpSet i => exact h.2 ▸ { hs.advance hn with }
  case powerdown =>
    subst h
    exact (hs.advance hn).of_sameCore (by simp [SameCore]) rfl

/-- So does every move that executes nothing. -/
theorem perform (hs : WellKept s) {t : State} {m : Move} {rest : List Move}
    (h : (s.startTurn rest).perform m = .done (.next t)) : WellKept t := by
  have hstart : WellKept (s.startTurn rest) := { hs with }
  have hhold : WellKept (s.startTurn rest).holdWindow := hs.of_sameCore (sameCore_holdWindow s rest) (by simp)
  obtain rfl | ⟨irq, r, rfl⟩ | ⟨-, rfl⟩ | ⟨a, b, -, -, rfl⟩ | ⟨d, -, -, rfl⟩ | ⟨k, -, -, -, -, rfl⟩ | ⟨-, -, rfl⟩ :=
    State.perform_done h
  · exact hhold
  · exact { hhold with }
  · exact hstart.hardReset
  · exact hhold.of_sameCore (by simp [SameCore]) (by simp)
  · exact hhold.debugWrite d
  · exact hhold.acceptInterrupt k
  · exact hhold.of_sameCore (by simp [SameCore]) (by simp)

end WellKept

/-- Settles O56: a line executes with `next(a)` at a line of the admitted program, hence in range; a move keeps the
invariant by itself. -/
theorem everyStepKeepsWellKept : Obligations.EveryStepKeepsWellKept := by
  intro s t hs h
  obtain ⟨m, rest, -, ⟨p, i, -, ⟨-, hd, -⟩, -, hu, he⟩ | hdone⟩ := step_line_or_move h
  · have hexec : WellKept (Executing s p.size rest) := { hs with }
    exact hexec.exec (fun hi => lt_of_lineAt hs.par hd (hu hi)) he
  · exact hs.perform hdone

/-- Settles O55: the launch is a reset of itself, and its parameters are lawful. -/
theorem resetIsWellKept : Obligations.ResetIsWellKept where
  par := Config.params_lawful
  pc := Nat.pow_pos (by decide)
  ilr := Nat.pow_pos (by decide)
  sp := Nat.pow_pos (by decide)
  sr := StatusReg.fits_iff.2 fun b _ => by cases b <;> simp [StatusReg.get, State.reset, State.launch, StatusReg.reset]
  loops i := by simp [State.loopSet, LoopSet.fits, State.reset, State.launch]
  mem := rfl
  regs := rfl
  memRange := nofun
  pm := rfl

/-! ## The history -/

/-- What an instruction adds to the history: nothing, a write, the acknowledges of a `sint`, or the halt. -/
theorem exec_history {i : Instr} {s t : State} (h : exec i s = .next t) :
    t.history = s.history ∨ (∃ a w, t.history = .memWrite a w :: s.history) ∨
    (∃ v m, i = .sint v ∧ s.par.sintPulsesIack = true ∧ t.history = ackEvents m ++ s.history) ∨
    (i = .powerdown ∧ t.history = (s.setRun .powerDown).history) := by
  have ha := exec_next h
  have hf := exec_frame h
  cases i
  case sint v =>
    obtain ⟨-, -, rfl⟩ := ha
    have hentry : (s.softwareEntry v).history = s.history := by
      obtain he | he := s.softwareEntry_cases v <;> exact (congrArg State.history he).trans rfl
    obtain hs | ⟨hp, m, hs⟩ := s.softwareInterrupt_cases v <;> rw [hs]
    · exact .inl hentry
    · exact .inr (.inr (.inl ⟨v, m, rfl, hp, congrArg (ackEvents m ++ ·) hentry⟩))
  case stLcp o | stLc o | stLstk o | stLpa o | stSr o | stIlr o =>
    obtain ⟨-, -, w, rfl⟩ := ha
    exact .inr (.inl ⟨_, w, rfl⟩)
  case powerdown =>
    have ht : t = s.advance.setRun .powerDown := ha
    exact .inr (.inr (.inr ⟨rfl, (congrArg State.history ht).trans rfl⟩))
  all_goals exact .inl ((congrArg State.history hf).trans rfl)

/-- No instruction but `powerdown` changes the run state. -/
theorem exec_run {i : Instr} {s t : State} (h : exec i s = .next t) : i = .powerdown ∨ t.run = s.run := by
  cases hw : writesRun i
  · right
    simpa [keepUnwritten, hw] using congrArg State.run (exec_frame h)
  · left
    cases i with
    | powerdown => rfl
    | _ => cases hw

/-- Acknowledges say nothing of `powerdown_out`. -/
theorem powerdownLevel_acks {es : List Event} (hes : ∀ e ∈ es, ∃ k, e = .iack k) (h : List Event) :
    powerdownLevel (es ++ h) = powerdownLevel h := by
  induction es with
  | nil => rfl
  | cons e es ih =>
    obtain ⟨k, rfl⟩ := hes e (by simp)
    exact ih fun e he => hes e (List.mem_cons_of_mem _ he)

/-- A change of the run state records the level it leads to, if that is another. -/
theorem HistoryAgrees.setRun {s : State} (h : HistoryAgrees s) (r : RunState) : HistoryAgrees (s.setRun r) := by
  show powerdownLevel (if s.powerdownOut = decide (r = .powerDown) then _ else _) = decide (r = .powerDown)
  split
  · next hr => exact h.trans hr
  · rfl

/-- The agreement is one of the history and the run state alone. -/
theorem HistoryAgrees.of_eq {s t : State} (h : HistoryAgrees s) (hhist : t.history = s.history)
    (hout : t.powerdownOut = s.powerdownOut) : HistoryAgrees t := by
  rw [HistoryAgrees, hhist, hout]
  exact h

theorem HistoryAgrees.exec {i : Instr} {s t : State} (hs : HistoryAgrees s) (h : exec i s = .next t) :
    HistoryAgrees t := by
  by_cases hi : i = .powerdown
  · subst hi
    have ht : t = s.advance.setRun .powerDown := exec_next h
    have hadv : HistoryAgrees s.advance := hs
    exact ht ▸ hadv.setRun _
  · have hout : t.powerdownOut = s.powerdownOut := by
      rw [State.powerdownOut, (exec_run h).resolve_left hi]
      rfl
    obtain hh | ⟨a, w, hh⟩ | ⟨v, m, -, -, hh⟩ | ⟨hp, -⟩ := exec_history h
    · exact hs.of_eq hh hout
    · rw [HistoryAgrees, hh, hout]
      exact hs
    · have hack : ∀ e ∈ ackEvents m, ∃ k, e = .iack k := fun e he =>
        (mem_ackEvents.1 he).imp fun k hk => hk.2
      rw [HistoryAgrees, hh, hout, powerdownLevel_acks hack]
      exact hs
    · exact absurd hp hi

theorem HistoryAgrees.perform {s t : State} {m : Move} {rest : List Move} (hs : HistoryAgrees s)
    (h : (s.startTurn rest).perform m = .done (.next t)) : HistoryAgrees t := by
  have hstart : HistoryAgrees (s.startTurn rest) := hs
  have hhold : HistoryAgrees (s.startTurn rest).holdWindow := hs.of_eq (by simp) (by simp [State.powerdownOut])
  obtain rfl | ⟨irq, r, rfl⟩ | ⟨-, rfl⟩ | ⟨a, b, ha, hb, rfl⟩ | ⟨d, -, -, rfl⟩ | ⟨k, -, -, -, -, rfl⟩ | ⟨-, -, rfl⟩ :=
    State.perform_done h
  · exact hhold
  · exact hhold
  · exact hstart.setRun .running
  · refine hhold.of_eq (by simp) ?_
    simp only [State.powerdownOut, State.runFromTo_run, decide_eq_decide]
    split
    · next hr =>
      rw [hr]
      simp [ha, hb]
    · rfl
  · refine hhold.of_eq (by simp) ?_
    cases d <;> rfl
  · exact hhold
  · exact hhold.setRun .running

/-- Settles O57: both records of a change go through `State.setRun`, and nothing else changes the run state from or to
power-down. -/
theorem historyFollowsPowerdownOut : Obligations.HistoryFollowsPowerdownOut := by
  refine ⟨rfl, fun s t hs h => ?_⟩
  obtain ⟨m, rest, -, ⟨p, i, -, -, -, -, he⟩ | hdone⟩ := step_line_or_move h
  · have hexec : HistoryAgrees (Executing s p.size rest) := hs
    exact hexec.exec he
  · exact hs.perform hdone

end Sys2Proof
end

section
/-! Proofs about the stuck jump, and about a software interrupt and the return from it (41_jp_nop.md, 40_sint_reti.md). -/

namespace Sys2Proof.Machine

open Claims

/-! ## The jump out of program memory -/

/-- Settles O2: such a number is no address of program memory, so `jp` takes its stuck branch. -/
theorem jumpOutsideProgramMemoryIsStuck : Obligations.JumpOutsideProgramMemoryIsStuck := by
  intro T s hlaw hT
  rw [exec_jp, if_neg]
  rw [Params.inProgramMemory_iff hlaw]
  omega

/-! ## The entry by `sint` -/

/-- The acknowledges of a software interrupt are some outputs, each recorded once, and none where SINT_PULSES_IACK is
false (D14). -/
theorem mayAcknowledge_softwareInterrupt (s : State) (v : Nat) : MayAcknowledge s (s.softwareInterrupt v) := by
  have hkeep : (s.softwareEntry v).par = s.par ∧ (s.softwareEntry v).iackOut = s.iackOut ∧
      (s.softwareEntry v).history = s.history ∧ (s.softwareEntry v).draws = s.draws := by
    obtain h | h := s.softwareEntry_cases v <;> simp [h]
  obtain ⟨hpar, hack, hhist, hdraws⟩ := hkeep
  unfold State.softwareInterrupt
  obtain ⟨hp, h⟩ | ⟨hp, m, h⟩ := (s.softwareEntry v).sintAck_cases v <;> rw [hpar] at hp <;> rw [h]
  · exact ⟨0, [], by simp [hack], hhist, .nil, by simp, fun _ => ⟨rfl, hdraws⟩, by simp [hp]⟩
  · refine ⟨m, ackEvents m, by simp [hack], by simp [hhist], nodup_ackEvents m, fun e => mem_ackEvents, by simp [hp],
      by simp [hdraws]⟩

/-- The registers a whole entry by `sint` writes, and those it leaves. -/
theorem softwareInterrupt_entry {s : State} {v : Nat} (h : v ≠ 0 ∨ s.par.irq0FullEntry = true) :
    (s.softwareInterrupt v).pc = v ∧ (s.softwareInterrupt v).ilr = s.sintReturn ∧
      (s.softwareInterrupt v).sr = s.sr.enter ∧ (s.softwareInterrupt v).iePrev = false ∧
      (s.softwareInterrupt v).imskPrev = s.imsk ∧ SameButEntry s (s.softwareInterrupt v) := by
  obtain hs | ⟨-, m, hs⟩ := s.softwareInterrupt_cases v <;> rw [hs, State.softwareEntry_of_ne h] <;> simp [SameButEntry]

/-- Settles O5: a vector address other than 0 takes the whole entry; the acknowledges write nothing of it. -/
theorem softwareInterruptTakesTheEntry : Obligations.SoftwareInterruptTakesTheEntry := by
  intro v s heven hpos hv
  obtain ⟨hpc, hilr, hsr, hie, himsk, hsame⟩ := softwareInterrupt_entry (s := s) (.inl hpos.ne')
  refine ⟨s.softwareInterrupt v, exec_sint_of_vector heven hv s, hpc, fun hline => ?_, fun k hk => ?_, hsr, hie, himsk,
    hsame, mayAcknowledge_softwareInterrupt s v⟩
  · simp [hilr, State.sintReturn, hline]
  · simp [hilr, State.sintReturn, hk]

/-- Settles O8: the registers are those of the entry or PC alone, by the parameter, and the acknowledges stay open. -/
theorem softResetIsFullEntryOrPcAlone : Obligations.SoftResetIsFullEntryOrPcAlone := by
  intro s
  refine ⟨s.softwareInterrupt 0, exec_sint_of_vector rfl (Nat.zero_le 30) s, mayAcknowledge_softwareInterrupt s 0,
    fun hpc => ?_, fun hfull => ?_⟩
  · have hentry : s.softwareEntry 0 = { s with pc := 0 } := if_pos ⟨rfl, hpc⟩
    rw [State.softwareInterrupt_eq, hentry]
  · have hentry := State.softwareEntry_of_ne (s := s) (v := 0) (.inr hfull)
    rw [State.softwareInterrupt_eq, hentry]
    rfl

/-- An admitted program's `sint` line has a vector address for its operand. -/
theorem exec_sint_of_line {s : State} (hd : programDefect s.par s.pm = none) {v n : Nat}
    (hl : s.lineAt s.pc = some ⟨⟨.sint v, some .nop⟩, n⟩) : exec (.sint v) s = .next (s.softwareInterrupt v) := by
  have hplaced := (programDefect_none hd _ (mem_of_lookupAt hl)).1
  have hv : (Instr.sint v).defect = none := by
    cases hdef : (Instr.sint v).defect with
    | none => rfl
    | some d => simp [Placed.defect, Line.defect, Line.op, hdef] at hplaced
  exact ifAdmitted_of_none hv _

/-- Right after a return to the `nop` inside a `sint` line, the operation at PC is that `nop`, as long as the rest of
the line (D13; log entry 21). -/
theorem operationAt_nopBeside {u : State} {a k n v : Nat} (hd : programDefect u.par u.pm = none)
    (hl : u.lineAt a = some ⟨⟨.sint v, some .nop⟩, n⟩) (hk : u.par.sintReturn = .itsNop k) (hpos : 0 < k) (hlt : k < n)
    (hret : u.returned = true) : u.operationAt (a + k) = some ⟨⟨.nop, none⟩, n - k⟩ := by
  have hnone : u.lineAt (a + k) = none := by
    cases hin : u.lineAt (a + k) with
    | none => rfl
    | some q =>
      have hinside : a < a + k ∧ a + k < a + n := by omega
      exact absurd hinside (not_inside_of_admitted hd (mem_of_lookupAt hl) _ (mem_of_lookupAt hin))
  simp [State.operationAt, hnone, hret, State.nopBeside, hk, hl, hlt]

/-- The step of that `nop` leads to the line after, and writes nothing else but the step's own latches. -/
theorem step_nopBeside {u : State} {a k n v : Nat} (hr : u.run = .running) (hd : programDefect u.par u.pm = none)
    (hl : u.lineAt a = some ⟨⟨.sint v, some .nop⟩, n⟩) (hk : u.par.sintReturn = .itsNop k) (hpos : 0 < k) (hlt : k < n)
    (hret : u.returned = true) (hpc : u.pc = a + k) (hnext : (u.lineAt (a + n)).isSome = true) (rest : List Move) :
    step { u with agenda := .line :: rest } = .next { Executing u (n - k) rest with pc := a + n } := by
  have hop := operationAt_nopBeside hd hl hk hpos hlt hret
  rw [← hpc] at hop
  have hend : u.pc + (n - k) = a + n := by omega
  have hat : AtOperation { u with agenda := .line :: rest } ⟨⟨.nop, none⟩, n - k⟩ := ⟨hr, hd, hop⟩
  rw [step_line hat rfl (fun _ => hend ▸ hnext) (.inl rfl), exec_nop, State.advance_eq, ← hend]
  rfl

/-- Settles O6: the return leads to the address saved; where that is the line's own `nop`, no line starts there, and the
step of the `nop` leads on. -/
theorem softwareInterruptResumesAfterItsLine : Obligations.SoftwareInterruptResumesAfterItsLine := by
  intro v n s hlaw hr hd hl hnpc hnext hfull
  obtain ⟨-, hilr, hsr, -, -, hpar, -, -, -, -, -, -, -, hpm, -, -, hrun, -⟩ := softwareInterrupt_entry hfull
  refine ⟨_, _, exec_sint_of_line hd hl, exec_reti _, ?_⟩
  generalize s.softwareInterrupt v = t at *
  have hpc : t.returnFromInterrupt.pc = s.sintReturn := hilr
  refine ⟨by simp [hsr], by simp [hsr], fun hline => ?_, fun k hk => ?_⟩
  · rw [hpc]
    simp [State.sintReturn, hline]
  · have hret : s.sintReturn = if k < n then s.pc + k else s.npc := by simp [State.sintReturn, hk, hnpc]
    refine ⟨fun hle => ?_, fun hlt => ?_⟩
    · rw [hpc, hret, if_neg (by omega)]
    · rw [if_pos hlt] at hret
      have hpos : 0 < k := by
        refine Nat.pos_of_ne_zero ?_
        rintro rfl
        exact (Params.bounded hlaw).sintReturn hk
      have hline : ∀ a, t.returnFromInterrupt.lineAt a = s.lineAt a := fun a => congrArg (lookupAt · a) hpm
      refine ⟨hpc.trans hret, fun rest => ?_⟩
      rw [hnpc]
      refine step_nopBeside (u := t.returnFromInterrupt) (hrun.trans hr) ?_ ((hline _).trans hl) ?_ hpos hlt rfl
        (hpc.trans hret) ?_ rest
      · simpa [hpar, hpm] using hd
      · simpa [hpar] using hk
      · rw [hline, ← hnpc]
        exact hnext

end Sys2Proof.Machine
end

section
/-! Proofs about what a step that goes on has done: the line it ran, the entry it made, the acknowledge it gave
(60_exceptions.md sections 3 to 8). -/

namespace Sys2Proof.Machine

open Claims

/-- A line that answers a next state is the instruction of the operation at PC, executed. -/
theorem step_line_next {s t : State} {rest : List Move} (hr : s.run = .running) (hn : s.NextMove .line rest)
    (h : step s = .next t) :
    ∃ p i, AtOperation s p ∧ p.line.op = some i ∧ exec i (Executing s p.size rest) = .next t := by
  obtain ⟨i, u, hu, he⟩ | hdone := step_next.1 h
  · rw [State.turn_line hr hn] at hu
    obtain ⟨hd, p, ho, hi, -, rfl⟩ := State.fetch_execute.1 hu
    exact ⟨p, i, ⟨hr, hd, ho⟩, hi, he⟩
  · rw [State.turn_line hr hn] at hdone
    exact absurd hdone State.fetch_done

/-- There is one operation at a PC. -/
theorem operation_unique {s : State} {p q : Placed} (hp : s.operationAt s.pc = some p) (hq : AtOperation s q) :
    q = p := by
  obtain ⟨-, -, hq⟩ := hq
  exact Option.some.inj (hq.symm.trans hp)

/-- A core that does not run accepts nothing, so what the window holds makes no difference to it. -/
theorem State.mayAccept_of_holdWindow {s : State} {k : Fin 15} {rest : List Move}
    (h : (s.startTurn rest).holdWindow.mayAccept k = true) : s.mayAccept k = true := by
  have hr : s.run = .running := by
    have := ((acceptanceCondition _ k).1 h).1
    simpa using this
  rwa [State.holdWindow_of_running (s := s.startTurn rest) hr] at h

/-- Settles O44: the boundary before the line sets the hidden values, and no instruction but `sint` writes them. -/
theorem windowLastsOneLine : Obligations.WindowLastsOneLine := by
  intro s t rest p hr ha ho hno h
  obtain ⟨q, i, hq, hi, he⟩ := step_line_next hr (.inl ha) h
  obtain rfl := operation_unique ho hq
  have hsint : isSint i = false := by
    cases i with
    | sint v => exact absurd hi (hno v)
    | _ => rfl
  have hf := exec_frame he
  have hie : t.iePrev = (keepUnwritten i _ t).iePrev := congrArg State.iePrev hf
  have himsk : t.imskPrev = (keepUnwritten i _ t).imskPrev := congrArg State.imskPrev hf
  simp only [keepUnwritten, hsint, cond_false] at hie himsk
  exact ⟨hie, himsk⟩

/-- Settles O37: only a `reti` says that PC is where a return went, and without that PC executes nothing but lines. -/
theorem onlyReturnGoesOnInsideALine : Obligations.OnlyReturnGoesOnInsideALine := by
  intro s t m rest ha hm h hrun hno hnext
  have hkeep : t.returned = false ∧ programDefect t.par t.pm = none := by
    obtain ⟨rfl, p, i, hp, hi, hret⟩ | ⟨k, rfl, hk⟩ := hm
    · obtain ⟨q, j, hq, hj, he⟩ := step_line_next hp.1 (.inl ha) h
      obtain ⟨-, hd, ho⟩ := hp
      obtain rfl := operation_unique ho hq
      obtain rfl : i = j := Option.some.inj (hi.symm.trans hj)
      obtain ⟨hpm, hpar⟩ := exec_sameProgram he
      refine ⟨exec_returned he rfl hret, ?_⟩
      rw [hpm, hpar]
      exact hd
    · have hr := ((acceptanceCondition s k).1 hk).1
      cases hd : programDefect s.par s.pm with
      | some d =>
        rw [step_of_programDefect hr (.inl ha) (.inr ⟨k, rfl, hk⟩) hd] at h
        cases h
      | none =>
        rw [step_accept_next hk (.inl ha) h]
        exact ⟨rfl, hd⟩
  obtain ⟨hret, hd⟩ := hkeep
  have ho : t.operationAt t.pc = none := (State.operationAt_of_not_returned hret _).trans hno
  obtain hl | ⟨k, hk, hway⟩ := hnext
  · obtain ⟨rest', ha'⟩ := List.head?_eq_some_iff.1 hl
    exact step_of_no_operation hrun (.inl ha') (.inl rfl) hd ho
  · obtain ⟨rest', ha'⟩ := List.head?_eq_some_iff.1 hk
    exact step_of_no_operation hrun (.inl ha') (.inr ⟨k, rfl, (acceptanceCondition t k).2 ⟨hrun, hway⟩⟩) hd ho

/-- Settles O43: the entry saves PC and SRME, and the return takes them from where the entry put them. -/
theorem entryThenReturnResumes : Obligations.EntryThenReturnResumes := by
  intro s t k rest ha hk h
  rw [step_accept_next hk (.inl ha) h, exec_reti]
  rfl

/-! ## Acknowledges -/

/-- A change of the run state records a change of `powerdown_out` or nothing. -/
theorem State.setRun_history_cases (s : State) (r : RunState) :
    ∃ es, (s.setRun r).history = es ++ s.history ∧ ∀ k, Event.iack k ∉ es := by
  by_cases h : s.powerdownOut = decide (r = .powerDown)
  · exact ⟨[], if_pos h, by simp⟩
  · exact ⟨[.powerdownOut (decide (r = .powerDown))], if_neg h, by simp⟩

/-- What is added to a history is one list: an event that is not in it was not added. -/
theorem not_added {e : Event} {es es' h t : List Event} (hes : t = es ++ h) (hes' : t = es' ++ h) (hno : e ∉ es') :
    e ∉ es := by
  rwa [List.append_cancel_right (hes.symm.trans hes')]

/-- Of the instructions `sint` alone acknowledges, where SINT_PULSES_IACK holds. -/
theorem exec_acks {i : Instr} {s t : State} {k : Fin 15} {es : List Event} (h : exec i s = .next t)
    (hes : t.history = es ++ s.history) (hk : .iack k ∈ es) : s.par.sintPulsesIack = true ∧ ∃ v, i = .sint v := by
  obtain h' | ⟨a, w, h'⟩ | ⟨v, m, hv, hp, -⟩ | ⟨-, h'⟩ := exec_history h
  · exact absurd hk (not_added (es' := []) hes h' (by simp))
  · exact absurd hk (not_added (es' := [.memWrite a w]) hes h' (by simp))
  · exact ⟨hp, v, hv⟩
  · obtain ⟨es', he, hno⟩ := s.setRun_history_cases .powerDown
    exact absurd hk (not_added hes (h'.trans he) (hno k))

/-- Of the other moves the acceptance of `k` alone acknowledges, and just `k`. -/
theorem perform_acks {s t : State} {m : Move} {rest : List Move} {k : Fin 15} {es : List Event}
    (h : (s.startTurn rest).perform m = .done (.next t)) (hes : t.history = es ++ s.history) (hk : .iack k ∈ es) :
    m = .accept k ∧ s.mayAccept k = true := by
  have kept (h' : t.history = s.history) : False := not_added (es' := []) hes h' (by simp) hk
  obtain rfl | ⟨irq, r, rfl⟩ | ⟨-, rfl⟩ | ⟨a, b, -, -, rfl⟩ | ⟨d, -, -, rfl⟩ | ⟨j, rfl, hj, -, -, rfl⟩ | ⟨-, -, rfl⟩ :=
    State.perform_done h
  · exact (kept (by simp)).elim
  · exact (kept (by simp)).elim
  · obtain ⟨es', he, hno⟩ := (s.startTurn rest).setRun_history_cases .running
    exact absurd hk (not_added hes he (hno k))
  · exact (kept (by simp)).elim
  · exact (kept (by simp)).elim
  · have hj' : j = k := by
      have h' : .iack j :: s.history = es ++ s.history := by simpa [State.acceptInterrupt] using hes
      have : es = [.iack j] := (List.append_cancel_right (as := [Event.iack j]) h').symm
      simpa [this, eq_comm] using hk
    subst hj'
    exact ⟨rfl, State.mayAccept_of_holdWindow hj⟩
  · obtain ⟨es', he, hno⟩ := (s.startTurn rest).holdWindow.setRun_history_cases .running
    exact absurd hk (not_added hes (he.trans (by simp)) (hno k))

/-- Settles O41: an acknowledge comes from a line that is a `sint`, or from an acceptance, which is the entry. -/
theorem acknowledgeOnlyOnAcceptance : Obligations.AcknowledgeOnlyOnAcceptance := by
  intro s t k es h hes hk
  obtain ⟨m, rest, hn, ⟨p, i, -, hp, hi, -, he⟩ | hdone⟩ := step_line_or_move h
  · obtain ⟨hpulse, v, rfl⟩ := exec_acks he hes hk
    exact .inr ⟨hpulse, p, v, hp, hi⟩
  · obtain ⟨rfl, hmay⟩ := perform_acks hdone hes hk
    obtain ⟨hr, hway⟩ := (acceptanceCondition s k).1 hmay
    have ht := step_accept_next hmay hn h
    refine .inl ⟨hr, hway, ?_⟩
    rw [ht]
    rfl

/-! ## The one vector table -/

/-- An instruction that changes ILR or the SRME backup is a `sint`, or a load of `ilr` or `sr`. -/
theorem exec_of_link_changed {i : Instr} {s t : State} (h : exec i s = .next t)
    (hne : t.ilr ≠ s.ilr ∨ t.sr.ie0 ≠ s.sr.ie0 ∨ t.sr.other0 ≠ s.sr.other0) :
    (∃ v, i = .sint v) ∨ (∃ o, i = .ldIlr o) ∨ ∃ o, i = .ldSr o := by
  obtain ⟨hilr, -, -, hbackup, -⟩ := onlyTheseInstructionsWrite i s t h
  cases i with
  | sint v => exact .inl ⟨v, rfl⟩
  | ldIlr o => exact .inr (.inl ⟨o, rfl⟩)
  | ldSr o => exact .inr (.inr ⟨o, rfl⟩)
  | _ =>
    obtain ⟨hie0, hother0⟩ := hbackup rfl
    simp [hilr rfl, hie0, hother0] at hne

/-- A software interrupt leads to its vector address, 0 included, by either reading of IRQ0_FULL_ENTRY. -/
theorem softwareInterrupt_pc (s : State) (v : Nat) : (s.softwareInterrupt v).pc = v := by
  rw [State.softwareInterrupt_eq]
  show (s.softwareEntry v).pc = v
  unfold State.softwareEntry
  split
  · next h => exact h.1.symm
  · rfl

/-- A software interrupt that changes ILR or the SRME backup takes an entry of the table. -/
theorem takenAt_of_sint {v : Nat} {s t : State} (h : exec (.sint v) s = .next t)
    (hne : t.ilr ≠ s.ilr ∨ t.sr.ie0 ≠ s.sr.ie0 ∨ t.sr.other0 ≠ s.sr.other0) : ∃ n < 16, TakenAt n t.ilr s t := by
  obtain ⟨heven, hv, rfl⟩ : v % 2 = 0 ∧ v ≤ 30 ∧ t = s.softwareInterrupt v := exec_next h
  refine ⟨v / 2, by omega, ?_⟩
  by_cases hfull : v ≠ 0 ∨ s.par.irq0FullEntry = true
  · obtain ⟨hpc, -, hsr, hie, himsk, -⟩ := softwareInterrupt_entry hfull
    exact ⟨by omega, rfl, hsr, hie, himsk⟩
  · have hentry : s.softwareEntry v = { s with pc := 0 } := if_pos (by simpa using hfull)
    rw [State.softwareInterrupt_eq, hentry] at hne
    simp at hne

/-- Settles O42: each way in is one entry of one table, and nothing else but a load, a debugger or a reset writes ILR or
the backup. -/
theorem oneVectorTableOneLevel : Obligations.OneVectorTableOneLevel := by
  refine ⟨fun s t k rest ha hk h => ?_, fun n s hn => ?_, fun v s t h => ?_, fun s t h hne => ?_⟩
  · rw [step_accept_next hk (.inl ha) h]
    exact ⟨rfl, rfl, rfl, rfl, rfl⟩
  · refine ⟨s.softwareInterrupt (2 * n), exec_sint_of_vector (by omega) (by omega) s, softwareInterrupt_pc s _,
      fun hfull => ?_⟩
    have hfull : 2 * n ≠ 0 ∨ s.par.irq0FullEntry = true := hfull.imp_left (by omega)
    obtain ⟨hpc, hilr, hsr, hie, himsk, -⟩ := softwareInterrupt_entry hfull
    exact ⟨hpc, hilr, hsr, hie, himsk⟩
  · obtain ⟨heven, hv, -⟩ : v % 2 = 0 ∧ v ≤ 30 ∧ t = s.softwareInterrupt v := exec_next h
    exact ⟨v / 2, by omega, by omega⟩
  · obtain ⟨m, rest, hn, ⟨p, i, -, hp, hi, -, he⟩ | hdone⟩ := step_line_or_move h
    · obtain ⟨v, rfl⟩ | ⟨o, rfl⟩ | ⟨o, rfl⟩ := exec_of_link_changed he hne
      · have htaken : ∃ n < 16, TakenAt n t.ilr (Executing s p.size rest) t := takenAt_of_sint he hne
        exact .inl htaken
      · exact .inr (.inl ⟨p, o, hp, .inl hi⟩)
      · exact .inr (.inl ⟨p, o, hp, .inr hi⟩)
    · obtain rfl | ⟨irq, r, rfl⟩ | ⟨rfl, -⟩ | ⟨a, b, -, -, rfl⟩ | ⟨d, rfl, -⟩ | ⟨k, rfl, hk, -⟩ | ⟨-, -, rfl⟩ :=
        State.perform_done hdone
      · simp at hne
      · simp at hne
      · exact .inr (.inr (.inr hn.head_hardReset))
      · simp at hne
      · exact .inr (.inr (.inl ⟨d, hn.head_debugWrite⟩))
      · rw [step_accept_next (State.mayAccept_of_holdWindow hk) hn h]
        exact .inl ⟨k.val + 1, by omega, rfl, rfl, rfl, rfl, rfl⟩
      · simp at hne

end Sys2Proof.Machine
end

section
/-! Proofs about the mask, the interrupt status, and the operands the spec refuses (42_ie_imsk_irqstat.md,
30_encoding.md section 5). -/

namespace Sys2Proof.Machine

open Claims

/-- Settles O28: every instruction whose operands can have a defect asks for them to be admitted first. -/
theorem inadmissibleOperandRefused : Obligations.InadmissibleOperandRefused := by
  intro i d s h
  cases i with
  | jp | nop | reti | setInterruptMask | getInterruptMask | getIrqStat | spAdd | powerdown => cases h
  | _ => exact ifAdmitted_of_defect h _

/-- Settles O11: 15 bits hold every admitted immediate. -/
theorem maskWriteOfAnImmediate : Obligations.MaskWriteOfAnImmediate := by
  intro m s hm
  have hdef : (Instr.imskSet m).defect = none := if_pos hm
  refine ⟨_, ifAdmitted_of_none hdef _, ?_, rfl⟩
  simpa [State.setImsk] using Nat.mod_eq_of_lt (by omega : m < 2 ^ 15)

/-- Settles O12: the mask is the register cut to its low 15 bits. -/
theorem maskWriteOfARegister : Obligations.MaskWriteOfARegister := by
  intro r s
  refine ⟨_, rfl, fun k => ?_, rfl⟩
  simp [State.setImsk]

/-- A move of a value to a general register, which holds it, with the others and all else but PC as before. -/
theorem setReg_advance_spec {s : State} (h : Registers.wf s.regs = true) (r : Nat) (x : Word) :
    (s.setReg r x).advance.reg r = x ∧ (∀ q, q ≠ r → (s.setReg r x).advance.reg q = s.reg q) ∧
      (s.setReg r x).advance = { s with pc := s.npc, regs := (s.setReg r x).advance.regs } :=
  ⟨State.reg_setReg_self s r x h, fun _ hq => State.reg_setReg_ne s hq x, rfl⟩

/-- Settles O13: the register takes the mask, to which the width adds zeros. -/
theorem maskReadZeroExtends : Obligations.MaskReadZeroExtends := by
  intro r s h
  obtain ⟨hself, hothers, hframe⟩ := setReg_advance_spec h r (s.imsk.setWidth 32)
  refine ⟨_, rfl, ?_, hothers, hframe⟩
  rw [hself]
  exact BitVec.toNat_setWidth_of_le (by decide)

/-- Settles O14: the register takes the raw levels, to which the width adds zeros. -/
theorem statusReadShowsUnmaskedRequests : Obligations.StatusReadShowsUnmaskedRequests := by
  intro r s h
  obtain ⟨hself, hothers, hframe⟩ := setReg_advance_spec h r (s.irqStat.setWidth 32)
  refine ⟨_, rfl, fun k _ => ?_, ?_, hothers, hframe⟩
  · rw [hself]
    have hk : k.val < 32 := by omega
    simp [State.irqStat, hk]
  · rw [hself, BitVec.toNat_setWidth_of_le (by decide)]
    exact BitVec.isLt _

end Sys2Proof.Machine
end

section
/-! Proofs about the stack pointer and the moves between registers and the stack (43_stack_loopregs.md). -/

namespace Sys2Proof.Claims

open Machine

/-- The register of a loop register set that a window register's name means. -/
def MovedReg.inSet (x : LoopSet) : MovedReg → Word
  | .lc => x.lc
  | .lstk => x.lstk
  | .lpa => x.lpa
  | .lcp | .sr | .ilr => 0

/-- The set with that register written. -/
def MovedReg.putInSet (x : LoopSet) (v : Word) : MovedReg → LoopSet
  | .lc => { x with lc := v }
  | .lstk => { x with lstk := v }
  | .lpa => { x with lpa := v }
  | .lcp | .sr | .ilr => x

/-- What a load does with the slot's value. -/
def MovedReg.take (s : State) : MovedReg → Word → Result
  | .lcp, w =>
    if h : (unpack s.par.lcpW w).toNat < 5 then .next { s.advance with lcp := ⟨(unpack s.par.lcpW w).toNat, h⟩ }
    else .fault .lcpOutOfRange
  | .sr, w => .next { s.advance with sr := .ofImage s.par.srLayout (unpack s.par.srLayout.length w) }
  | .ilr, w => .next { s.advance with ilr := (unpack s.par.pcw w).toNat }
  | r, w => s.withWindow fun i => .next (s.setLoopSet i (r.putInSet (s.loopSet i) (unpack (r.width s.par) w))).advance

end Sys2Proof.Claims

namespace Sys2Proof.Machine

open Claims

/-- Settles O15: the sum is the model's own, taken modulo 2^AW and so not negative. -/
theorem stackPointerAddsModulo : Obligations.StackPointerAddsModulo := by
  intro n s
  refine ⟨_, rfl, ?_, rfl⟩
  refine Int.toNat_of_nonneg (Int.emod_nonneg _ ?_)
  exact_mod_cast (Nat.pow_pos (by decide)).ne'

/-! ## The forms by register -/

theorem defect_store {o : Nat} (ho : o % 4 = 0) (r : MovedReg) : (r.store o).defect = none := by
  cases r <;> exact if_pos ho

theorem defect_load {o : Nat} (ho : o % 4 = 0) (r : MovedReg) : (r.load o).defect = none := by
  cases r <;> exact if_pos ho

/-- A store of a register that its name means is the one store operation, at that register's width. -/
theorem exec_store {s : State} {r : MovedReg} {o : Nat} {v : Word} (ho : o % 4 = 0) (hv : r.value s = some v) :
    exec (r.store o) s = s.storeAt o (r.width s.par) v := by
  have hd := defect_store ho r
  cases r with
  | lcp | sr | ilr =>
    obtain rfl := Option.some.inj hv
    exact ifAdmitted_of_none hd _
  | lc | lstk | lpa =>
    obtain ⟨i, hi, rfl⟩ := Option.map_eq_some_iff.1 hv
    refine (ifAdmitted_of_none hd _).trans ?_
    simp [State.withWindow, hi, MovedReg.width]

theorem inSet_putInSet {r : MovedReg} (hr : r.windowed = true) (x : LoopSet) (v : Word) :
    r.inSet (r.putInSet x v) = v := by
  cases r with
  | lc | lstk | lpa => rfl
  | lcp | sr | ilr => cases hr

/-- With LCP = `i` a window register's value is that register of set `i`. -/
theorem value_windowed {s : State} {r : MovedReg} {i : Fin 4} (hr : r.windowed = true) (hi : s.lcp.val = i.val) :
    r.value s = some (r.inSet (s.loopSet i)) := by
  have hw := State.window_eq_some.2 hi
  cases r with
  | lc | lstk | lpa => exact congrArg (Option.map _) hw
  | lcp | sr | ilr => cases hr

/-- A window register that has a value is one of the set LCP names. -/
theorem of_value_windowed {s : State} {r : MovedReg} {v : Word} (hr : r.windowed = true) (hv : r.value s = some v) :
    ∃ i : Fin 4, s.lcp.val = i.val ∧ v = r.inSet (s.loopSet i) := by
  have hwindow : ∃ i, s.window = some i := by
    cases r with
    | lc | lstk | lpa =>
      obtain ⟨i, hi, -⟩ := Option.map_eq_some_iff.1 hv
      exact ⟨i, hi⟩
    | lcp | sr | ilr => cases hr
  obtain ⟨i, hi⟩ := hwindow
  have hi := State.window_eq_some.1 hi
  exact ⟨i, hi, Option.some.inj (hv.symm.trans (value_windowed hr hi))⟩

/-- A load of a register that its name means is the one load operation, with what that register does with the value. -/
theorem exec_load {s : State} {r : MovedReg} {o : Nat} {v : Word} (ho : o % 4 = 0) (hv : r.value s = some v) :
    exec (r.load o) s = s.loadAt o (MovedReg.take s r) := by
  have hd := defect_load ho r
  cases r with
  | lcp | sr | ilr => exact ifAdmitted_of_none hd _
  | lc | lstk | lpa =>
    obtain ⟨i, hi, -⟩ := Option.map_eq_some_iff.1 hv
    refine (ifAdmitted_of_none hd _).trans ?_
    simp only [State.withWindow, hi]
    congr 1
    funext w
    simp [MovedReg.take, State.withWindow, hi, MovedReg.putInSet, MovedReg.width]

/-! ## Loads -/

/-- The value a slot holds goes to the register. -/
theorem exec_load_of_holds {s : State} {r : MovedReg} {o : Nat} {v w : Word} (hv : r.value s = some v)
    (h : SlotHolds s o w) : exec (r.load o) s = MovedReg.take s r w := by
  obtain ⟨⟨ho, ha⟩, hr⟩ := h
  rw [exec_load ho hv, State.loadAt, State.memRead_next.2 ⟨ha, hr⟩]

/-- With LCP = `i` a window form goes on with set `i`. -/
theorem State.withWindow_of_lcp {s : State} {i : Fin 4} (hi : s.lcp.val = i.val) (k : Fin 4 → Result) :
    s.withWindow k = k i := by simp [State.withWindow, State.window_eq_some.2 hi]

/-- Settles O18: a value up to 4 is one LCP holds. -/
theorem loadLoopPointer : Obligations.LoadLoopPointer := by
  intro o s w h hw
  have hlt : (unpack s.par.lcpW w).toNat < 5 := Nat.lt_succ_of_le hw
  exact ⟨_, (exec_load_of_holds (r := .lcp) rfl h).trans (dif_pos hlt), rfl, rfl⟩

/-- Settles O26: a value above 4 is none LCP holds. -/
theorem loopPointerAboveFourFaults : Obligations.LoopPointerAboveFourFaults := by
  intro o s w h hw
  exact (exec_load_of_holds (r := .lcp) rfl h).trans (dif_neg (by omega))

/-- The load of a window register with LCP = `i`: that register of set `i` takes the value, the set's others and the
other sets stay, and nothing else but PC changes. -/
theorem exec_load_windowed {s : State} {r : MovedReg} {o : Nat} {w : Word} {i : Fin 4} (hr : r.windowed = true)
    (h : SlotHolds s o w) (hi : s.lcp.val = i.val) :
    ∃ t, exec (r.load o) s = .next t ∧
      t.loopSet i = r.putInSet (s.loopSet i) (unpack (r.width s.par) w) ∧
      (∀ j, j ≠ i → t.loopSet j = s.loopSet j) ∧ t = { s with pc := s.npc, loops := t.loops } := by
  refine ⟨(s.setLoopSet i (r.putInSet (s.loopSet i) (unpack (r.width s.par) w))).advance, ?_,
    State.loopSet_setLoopSet_self s i _, fun _ hj => State.loopSet_setLoopSet_ne s hj _, rfl⟩
  rw [exec_load_of_holds (value_windowed hr hi) h]
  cases r with
  | lc | lstk | lpa => exact State.withWindow_of_lcp hi _
  | lcp | sr | ilr => cases hr

/-- Settles O19: each of the three is a window register. -/
theorem loadLoopRegister : Obligations.LoadLoopRegister := fun _ _ _ _ h hi =>
  ⟨exec_load_windowed (r := .lc) rfl h hi, exec_load_windowed (r := .lstk) rfl h hi,
    exec_load_windowed (r := .lpa) rfl h hi⟩

/-- A slot's value cut to a register's width: the slot modulo 2^width, whatever the width. -/
theorem toNat_unpack (width : Nat) (w : Word) : (unpack width w).toNat = w.toNat % 2 ^ width := by
  rw [unpack, lowBits, BitVec.toNat_ofNat]
  exact Nat.mod_eq_of_lt ((Nat.mod_le _ _).trans_lt w.isLt)

/-- A bit below the width is the slot's own. -/
theorem getLsbD_unpack {width j : Nat} (hj : j < width) (w : Word) : (unpack width w).getLsbD j = w.getLsbD j := by
  rw [BitVec.getLsbD, toNat_unpack, Nat.testBit_mod_two_pow]
  simp [hj, BitVec.getLsbD]

/-- Settles O20: a bit the layout has lies below SRW, so that its place is in what the load takes of the slot. -/
theorem loadStatusRegister : Obligations.LoadStatusRegister := by
  intro o s w _ h
  refine ⟨_, exec_load_of_holds (r := .sr) rfl h, fun b hb => ?_, StatusReg.fits_ofImage _ _, rfl⟩
  have hplace : s.par.srLayout.idxOf b < s.par.srLayout.length := List.idxOf_lt_length_of_mem hb
  have hget := getLsbD_unpack hplace w
  simp [StatusReg.ofImage, hb, ← hget]

/-- Settles O21: the value taken is the slot's modulo 2^PCW, by the width of ILR. -/
theorem loadLinkRegister : Obligations.LoadLinkRegister := by
  intro o s w h
  rw [← toNat_unpack]
  exact exec_load_of_holds (r := .ilr) rfl h

/-! ## Stops -/

/-- Settles O23: with LCP = 4 there is no window, for which both forms ask before they touch memory. -/
theorem windowRefusedAtFour : Obligations.WindowRefusedAtFour := by
  intro r o s hr ho h4
  have hnone : s.window = none := by simp [State.window, h4]
  have hstore := defect_store ho r
  have hload := defect_load ho r
  cases r with
  | lcp | sr | ilr => cases hr
  | lc | lstk | lpa =>
    constructor
    · refine (ifAdmitted_of_none hstore _).trans ?_
      simp [State.withWindow, hnone]
    · refine (ifAdmitted_of_none hload _).trans ?_
      simp [State.withWindow, hnone]

/-- Settles O24: the one store and the one load ask where the access goes. -/
theorem accessOutsideTheStackRefused : Obligations.AccessOutsideTheStackRefused := by
  intro r o s v ho hv ha
  rw [exec_store ho hv, exec_load ho hv]
  constructor
  · simp [State.storeAt, State.memWrite, ha]
  · simp [State.loadAt, State.memRead, ha]

/-- Settles O25: a slot of which a byte is unwritten has no value to read. -/
theorem loadOfUnwrittenSlotFaults : Obligations.LoadOfUnwrittenSlotFaults := by
  intro r o s v ⟨ho, ha⟩ hv hnone
  rw [exec_load ho hv]
  simp [State.loadAt, State.memRead, ha, hnone]

/-! ## Stores -/

/-- In a well-kept state every register that can be stored fits its width, and its width a slot. -/
theorem value_fits {s : State} (hs : WellKept s) {r : MovedReg} {v : Word} (hv : r.value s = some v) :
    r.width s.par ≤ 32 ∧ v.toNat < 2 ^ r.width s.par := by
  have hb := Params.bounded hs.par
  cases r with
  | lcp =>
    obtain rfl := Option.some.inj hv
    have hpow : 2 ^ 3 ≤ 2 ^ s.par.lcpW := Nat.pow_le_pow_right (by decide) hb.lcpW_lower
    refine ⟨hb.lcpW, ?_⟩
    show s.lcp.val % 2 ^ 32 < 2 ^ s.par.lcpW
    omega
  | lc =>
    obtain ⟨i, -, rfl⟩ := Option.map_eq_some_iff.1 hv
    obtain ⟨hlc, -, -⟩ := hs.loops i
    exact ⟨hb.lcW, hlc⟩
  | lstk =>
    obtain ⟨i, -, rfl⟩ := Option.map_eq_some_iff.1 hv
    obtain ⟨-, hlstk, -⟩ := hs.loops i
    exact ⟨hb.lstkW, hlstk⟩
  | lpa =>
    obtain ⟨i, -, rfl⟩ := Option.map_eq_some_iff.1 hv
    obtain ⟨-, -, hlpa⟩ := hs.loops i
    exact ⟨hb.lpaW, hlpa⟩
  | sr =>
    obtain rfl := Option.some.inj hv
    obtain ⟨⟨-, hlen⟩, -⟩ := srLayoutLawful_iff.1 hb.srLayout
    exact ⟨hlen, StatusReg.image_lt _ _⟩
  | ilr =>
    obtain rfl := Option.some.inj hv
    exact ⟨hb.pcw, (Nat.mod_le _ _).trans_lt hs.ilr⟩

/-- A store of a value that fits its register: one slot holds a word that unpacks to the value, and nothing else changes
but PC, the history and the count of free values. -/
theorem exec_store_spec {s : State} {r : MovedReg} {o : Nat} {v : Word} (hslot : SlotReady s o)
    (hv : r.value s = some v) (hw : r.width s.par ≤ 32) (hfit : v.toNat < 2 ^ r.width s.par) :
    ∃ t w, exec (r.store o) s = .next t ∧ Memory.readSlot t.par.bigEndian t.mem (s.slotAddr o) = some w ∧
      unpack (r.width s.par) w = v ∧ OnlySlotChanged (s.slotAddr o) s t ∧
      t = { s with
        pc := s.npc, mem := t.mem, history := .memWrite (s.slotAddr o) w :: s.history, draws := s.draws + 1 } := by
  obtain ⟨ho, ha⟩ := hslot
  refine ⟨_, pack (r.width s.par) v s.draw.1, (exec_store ho hv).trans (State.storeAt_next.2 ⟨ha, rfl⟩), ?_,
    unpack_pack hw v _ hfit, fun c hc => ?_, rfl⟩
  · exact Memory.readSlot_writeSlot_self ..
  · exact Memory.read_writeSlot_outside _ _ hc _

/-- Settles O17: in a well-kept state every value fits. -/
theorem storeWritesOneSlot : Obligations.StoreWritesOneSlot := by
  intro r o s v hs hslot hv
  obtain ⟨hw, hfit⟩ := value_fits hs hv
  exact exec_store_spec hslot hv hw hfit

/-! ## A store and then a load -/

/-- A register without a value is one of the window while LCP = 4. -/
theorem windowed_of_value_none {s : State} {r : MovedReg} (h : r.value s = none) : r.windowed = true ∧ s.lcp = 4 := by
  cases r with
  | lcp | sr | ilr => cases h
  | lc | lstk | lpa =>
    have hnone : s.window = none := Option.map_eq_none_iff.1 h
    refine ⟨rfl, ?_⟩
    unfold State.window at hnone
    split at hnone
    · cases hnone
    · omega

/-- A store that answers had an admitted slot, and a register its name means. -/
theorem of_exec_store {s t : State} {r : MovedReg} {o : Nat} (h : exec (r.store o) s = .next t) :
    SlotReady s o ∧ ∃ v, r.value s = some v := by
  have hready : SlotReady s o := by
    have ha := exec_next h
    cases r <;> exact ⟨ha.1, ha.2.1⟩
  refine ⟨hready, Option.ne_none_iff_exists'.1 fun hnone => ?_⟩
  obtain ⟨hr, h4⟩ := windowed_of_value_none hnone
  rw [(windowRefusedAtFour r o s hr hready.1 h4).1] at h
  cases h

/-- Settles O22: the slot holds a word that unpacks to the value, and the register takes it as its value again. -/
theorem loadRestoresWhatWasStored : Obligations.LoadRestoresWhatWasStored := by
  intro r o s t u hs h hpar hmem hsp hlcp
  obtain ⟨hready, v, hv⟩ := of_exec_store h
  obtain ⟨hw, hfit⟩ := value_fits hs hv
  obtain ⟨t', w, ht', hread, hunpack, -, hframe⟩ := exec_store_spec hready hv hw hfit
  rw [h] at ht'
  obtain rfl := Host.Outcome.next.inj ht'
  have hpar' : u.par = s.par := by rw [hpar, hframe]
  have haddr : u.slotAddr o = s.slotAddr o := by
    rw [State.slotAddr, State.slotAddr, hpar', hsp, hframe]
  have hholds : SlotHolds u o w := by
    refine ⟨⟨hready.1, ?_⟩, ?_⟩
    · rw [haddr, hpar']
      exact hready.2
    · rw [haddr, hpar, hmem]
      exact hread
  rw [hv]
  rw [← hpar'] at hunpack
  by_cases hr : r.windowed = true
  · obtain ⟨i, hi, -⟩ := of_value_windowed hr hv
    have hi : u.lcp.val = i.val := by rw [hlcp hr, hi]
    obtain ⟨x, hx, hset, -, hxu⟩ := exec_load_windowed hr hholds hi
    have hi : x.lcp.val = i.val := by rw [hxu, hi]
    exact ⟨x, hx, by rw [value_windowed hr hi, hset, inSet_putInSet hr, hunpack]⟩
  cases r with
  | lc | lstk | lpa => exact absurd rfl hr
  | lcp =>
    obtain rfl := Option.some.inj hv
    have hle : (unpack u.par.lcpW w).toNat ≤ 4 := by
      have hval : (unpack u.par.lcpW w).toNat = s.lcp.val % 2 ^ 32 := congrArg BitVec.toNat hunpack
      omega
    obtain ⟨x, hx, hlcp, -⟩ := loadLoopPointer o u w hholds hle
    refine ⟨x, hx, ?_⟩
    rw [MovedReg.value, hlcp, BitVec.ofNat_toNat, BitVec.setWidth_eq]
    exact congrArg some hunpack
  | sr =>
    obtain rfl := Option.some.inj hv
    refine ⟨_, exec_load_of_holds (r := .sr) rfl hholds, ?_⟩
    have hsr : StatusReg.ofImage u.par.srLayout (unpack u.par.srLayout.length w) = s.sr := by
      rw [show unpack u.par.srLayout.length w = s.sr.image s.par.srLayout from hunpack, hpar']
      exact StatusReg.ofImage_image hw hs.sr
    show some (StatusReg.image u.par.srLayout (.ofImage u.par.srLayout (unpack u.par.srLayout.length w))) = _
    rw [hsr, hpar']
  | ilr =>
    obtain rfl := Option.some.inj hv
    refine ⟨_, exec_load_of_holds (r := .ilr) rfl hholds, ?_⟩
    rw [← hunpack]
    exact congrArg some ((BitVec.ofNat_toNat 32 _).trans (BitVec.setWidth_eq _))

end Sys2Proof.Machine
end

section
/-! Proofs about the envelopes: what the open one saves, the close one restores (43_stack_loopregs.md R146, R147). -/

namespace Sys2Proof.Machine

open Claims

/-- One sequence and then another: the second goes on from where the first has led. -/
theorem execAll_append {is js : List Instr} {s t : State} (h : execAll is s = .next t) :
    execAll (is ++ js) s = execAll js t := by
  induction is generalizing s with
  | nil =>
    cases h
    rfl
  | cons i is ih =>
    rw [List.cons_append]
    rw [execAll] at h ⊢
    cases hi : exec i s with
    | next u =>
      rw [hi] at h
      exact ih h
    | fault f | refused r =>
      rw [hi] at h
      cases h

/-- The first instruction of a sequence answers, and the others go on from there. -/
theorem execAll_cons {i : Instr} {is : List Instr} {s t : State} (h : exec i s = .next t) :
    execAll (i :: is) s = execAll is t := by simp [execAll, h]

/-! ## The frame -/

/-- Where the 56-byte frame of an envelope begun in `s` lies: below SP, inside the stack region. -/
structure FrameFits (s : State) : Prop where
  wellKept : WellKept s
  room : 56 ≤ s.sp
  aligned : s.sp % 4 = 0
  above : s.par.stackLo ≤ s.sp - 56
  below : s.sp ≤ s.par.stackHi

/-- What the frame holds, one slot after another from the lowest: LCP, and then the four loop register sets. -/
def frameWords (s : State) : List (MovedReg × Word) :=
  (.lcp, BitVec.ofNat 32 s.lcp.val) :: (List.finRange 4).flatMap fun i =>
    [.lc, .lstk, .lpa].map fun r => (r, r.inSet (s.loopSet i))

/-- The slot `sp[o]` holds register `r`'s value `v`, whatever stands above its width. -/
def Saved (x : State) (o : Nat) (r : MovedReg) (v : Word) : Prop :=
  ∃ w, SlotHolds x o w ∧ unpack (r.width x.par) w = v

/-- `x` works on the frame of `s`, whose first `k` slots are saved. -/
structure InFrame (s x : State) (k : Nat) : Prop where
  par : x.par = s.par
  sp : x.sp = s.sp - 56
  saved : ∀ q < k, ∀ e, (frameWords s)[q]? = some e → Saved x (4 * q) e.1 e.2

/-- A slot of the frame lies where it should: nothing wraps. -/
theorem FrameFits.slotAddr {s x : State} (h : FrameFits s) (hpar : x.par = s.par) (hsp : x.sp = s.sp - 56) {q : Nat}
    (hq : q < 14) : x.slotAddr (4 * q) = s.sp - 56 + 4 * q := by
  have hstack := (Params.bounded h.wellKept.par).stack
  have hbelow := h.below
  have hroom := h.room
  rw [State.slotAddr, hpar, hsp]
  exact Nat.mod_eq_of_lt (by omega)

theorem FrameFits.slotReady {s x : State} (h : FrameFits s) (hpar : x.par = s.par) (hsp : x.sp = s.sp - 56) {q : Nat}
    (hq : q < 14) : SlotReady x (4 * q) := by
  refine ⟨by omega, ?_⟩
  rw [h.slotAddr hpar hsp hq, hpar, Params.slotAdmitted_iff]
  have hroom := h.room
  have haligned := h.aligned
  have habove := h.above
  have hbelow := h.below
  omega

/-- Another aligned slot reads as before, where only one slot has changed. -/
theorem readSlot_of_onlySlotChanged {s t : State} {a c : Nat} (h : OnlySlotChanged a s t) (ha : a % 4 = 0)
    (hc : c % 4 = 0) (hne : c ≠ a) (e : Bool) : Memory.readSlot e t.mem c = Memory.readSlot e s.mem c := by
  simp only [Memory.readSlot]
  rw [h c (by omega), h (c + 1) (by omega), h (c + 2) (by omega), h (c + 3) (by omega)]

/-! ## The open envelope -/

/-- The next slot of the frame is saved, the earlier ones stay, and no register but PC changes. -/
theorem exec_save {s x : State} {k : Nat} {r : MovedReg} {v : Word} (hf : FrameFits s) (hx : InFrame s x k)
    (he : (frameWords s)[k]? = some (r, v)) (hv : r.value x = some v)
    (hfit : r.width s.par ≤ 32 ∧ v.toNat < 2 ^ r.width s.par) :
    ∃ y, exec (r.store (4 * k)) x = .next y ∧ InFrame s y (k + 1) ∧ y.loops = x.loops ∧ y.lcp = x.lcp := by
  have hk : k < 13 := (List.getElem?_eq_some_iff.1 he).1
  have hready := hf.slotReady hx.par hx.sp (by omega : k < 14)
  rw [← hx.par] at hfit
  obtain ⟨y, w, hy, hread, hunpack, honly, hframe⟩ := exec_store_spec hready hv hfit.1 hfit.2
  have hpar : y.par = s.par := by rw [hframe, hx.par]
  have hsp : y.sp = s.sp - 56 := by rw [hframe, hx.sp]
  refine ⟨y, hy, ⟨hpar, hsp, fun q hq e heq => ?_⟩, by rw [hframe], by rw [hframe]⟩
  have haddr {j : Nat} (hj : j < 14) : y.slotAddr (4 * j) = x.slotAddr (4 * j) := by
    rw [hf.slotAddr hpar hsp hj, hf.slotAddr hx.par hx.sp hj]
  obtain hlt | rfl := Nat.lt_succ_iff_lt_or_eq.1 hq
  · obtain ⟨w', ⟨hready', hread'⟩, hunpack'⟩ := hx.saved q hlt e heq
    have hq14 : q < 14 := by omega
    have hne : y.slotAddr (4 * q) ≠ x.slotAddr (4 * k) := by
      rw [hf.slotAddr hpar hsp hq14, hf.slotAddr hx.par hx.sp (by omega)]
      omega
    refine ⟨w', ⟨hf.slotReady hpar hsp hq14, ?_⟩, by rw [hpar, ← hx.par, hunpack']⟩
    have ha := (Params.slotAdmitted_iff.1 hready.2).1
    have hc := (Params.slotAdmitted_iff.1 hready'.2).1
    rw [← haddr hq14] at hc hread'
    rw [readSlot_of_onlySlotChanged honly ha hc hne, hpar, ← hx.par, hread']
  · obtain rfl := Option.some.inj (heq.symm.trans he)
    refine ⟨w, ⟨hf.slotReady hpar hsp (by omega), ?_⟩, by rw [hpar, ← hx.par, hunpack]⟩
    rw [haddr (by omega), hread]

/-- The frame's slots of loop register set `i`. -/
theorem frameWords_set (s : State) (i : Fin 4) :
    (frameWords s)[3 * i.val + 1]? = some (.lc, (s.loopSet i).lc) ∧
    (frameWords s)[3 * i.val + 2]? = some (.lstk, (s.loopSet i).lstk) ∧
    (frameWords s)[3 * i.val + 3]? = some (.lpa, (s.loopSet i).lpa) := by
  fin_cases i <;> exact ⟨rfl, rfl, rfl⟩

/-- `x` works on the frame of `s`, the first `k` slots saved, with the loop registers of `s` and set `i` selected. -/
structure SavingSet (s x : State) (k : Nat) (i : Fin 4) : Prop where
  inFrame : InFrame s x k
  loops : x.loops = s.loops
  lcp : x.lcp.val = i.val

/-- One register of the selected set is saved. -/
theorem SavingSet.exec {s x : State} {k : Nat} {i : Fin 4} (hx : SavingSet s x k i) (hf : FrameFits s) {r : MovedReg}
    (hr : r.windowed = true) (he : (frameWords s)[k]? = some (r, r.inSet (s.loopSet i))) :
    ∃ y, exec (r.store (4 * k)) x = .next y ∧ SavingSet s y (k + 1) i := by
  have hset : x.loopSet i = s.loopSet i := by
    rw [State.loopSet, hx.loops]
    rfl
  have hv : r.value x = some (r.inSet (s.loopSet i)) := by rw [value_windowed hr hx.lcp, hset]
  have hfit : r.width s.par ≤ 32 ∧ (r.inSet (s.loopSet i)).toNat < 2 ^ r.width s.par := by
    have hb := Params.bounded hf.wellKept.par
    obtain ⟨hlc, hlstk, hlpa⟩ := hf.wellKept.loops i
    cases r with
    | lc => exact ⟨hb.lcW, hlc⟩
    | lstk => exact ⟨hb.lstkW, hlstk⟩
    | lpa => exact ⟨hb.lpaW, hlpa⟩
    | lcp | sr | ilr => cases hr
  obtain ⟨y, hy, hframe, hloops, hlcp⟩ := exec_save hf hx.inFrame he hv hfit
  exact ⟨y, hy, hframe, hloops.trans hx.loops, by rw [hlcp, hx.lcp]⟩

/-- The lines of the open envelope for set `i`: its three registers are saved above what is saved already. -/
theorem execAll_saveSet {s x : State} (hf : FrameFits s) (i : Fin 4) (hx : InFrame s x (3 * i.val + 1))
    (hloops : x.loops = s.loops) :
    ∃ y, execAll (.lcpSet i.val :: saveSet (4 * (3 * i.val + 1))) x = .next y ∧ InFrame s y (3 * i.val + 4) ∧
      y.loops = s.loops := by
  obtain ⟨hlc, hlstk, hlpa⟩ := frameWords_set s i
  have hx0 : SavingSet s { x with pc := x.npc, lcp := i.castSucc } (3 * i.val + 1) i :=
    ⟨⟨hx.par, hx.sp, hx.saved⟩, hloops, rfl⟩
  obtain ⟨x1, he1, hx1⟩ := hx0.exec (r := .lc) hf rfl hlc
  obtain ⟨x2, he2, hx2⟩ := hx1.exec (r := .lstk) hf rfl hlstk
  obtain ⟨x3, he3, hx3⟩ := hx2.exec (r := .lpa) hf rfl hlpa
  refine ⟨x3, ?_, hx3.inFrame, hx3.loops⟩
  exact (execAll_cons (loopPointerImmediate i.castSucc x)).trans <| (execAll_cons he1).trans <|
    (execAll_cons he2).trans <| execAll_cons he3

/-- The whole open envelope: the frame is saved, SP moved down to it, LCP 4, and the loop registers are as they were. -/
theorem execAll_envelopeOpen {s : State} (hf : FrameFits s) :
    ∃ t, execAll envelopeOpen s = .next t ∧ InFrame s t 13 ∧ t.loops = s.loops ∧ t.lcp = 4 := by
  have hsp : s.spPlus (-56) = s.sp - 56 := by
    have hlt := hf.wellKept.sp
    have hroom := hf.room
    have hsum : (s.sp : Int) + -56 = ((s.sp - 56 : Nat) : Int) := by omega
    rw [State.spPlus, hsum, ← Int.natCast_emod, Int.toNat_natCast]
    exact Nat.mod_eq_of_lt (by omega)
  have hdown : InFrame s { s.advance with sp := s.spPlus (-56) } 0 := ⟨rfl, hsp, nofun⟩
  obtain ⟨x0, he0, hx0, hl0, -⟩ := exec_save (r := .lcp) hf hdown rfl rfl (value_fits (r := .lcp) hf.wellKept rfl)
  obtain ⟨x1, he1, hx1, hl1⟩ := execAll_saveSet hf 0 hx0 hl0
  obtain ⟨x2, he2, hx2, hl2⟩ := execAll_saveSet hf 1 hx1 hl1
  obtain ⟨x3, he3, hx3, hl3⟩ := execAll_saveSet hf 2 hx2 hl2
  obtain ⟨x4, he4, hx4, hl4⟩ := execAll_saveSet hf 3 hx3 hl3
  refine ⟨{ x4 with pc := x4.npc, lcp := 4 }, ?_, ⟨hx4.par, hx4.sp, hx4.saved⟩, hl4, rfl⟩
  have hlines : envelopeOpen = .spAdd (-56) :: .stLcp 0 :: ((.lcpSet 0 :: saveSet 4) ++ ((.lcpSet 1 :: saveSet 16) ++
      ((.lcpSet 2 :: saveSet 28) ++ ((.lcpSet 3 :: saveSet 40) ++ [.lcpSet 4])))) := rfl
  rw [hlines]
  exact (execAll_cons rfl).trans <| (execAll_cons he0).trans <| (execAll_append he1).trans <|
    (execAll_append he2).trans <| (execAll_append he3).trans <| (execAll_append he4).trans <|
    execAll_cons (loopPointerImmediate 4 x4)

/-! ## The close envelope -/

/-- `x` works on the whole frame of `s`, with set `i` selected. -/
structure RestoringSet (s x : State) (i : Fin 4) : Prop where
  inFrame : InFrame s x 13
  lcp : x.lcp.val = i.val

/-- One register of the selected set is restored, and no other. -/
theorem RestoringSet.exec {s x : State} {k : Nat} {i : Fin 4} (hx : RestoringSet s x i) {r : MovedReg}
    (hr : r.windowed = true) (he : (frameWords s)[k]? = some (r, r.inSet (s.loopSet i))) :
    ∃ y, exec (r.load (4 * k)) x = .next y ∧ RestoringSet s y i ∧
      y.loopSet i = r.putInSet (x.loopSet i) (r.inSet (s.loopSet i)) ∧ ∀ j, j ≠ i → y.loopSet j = x.loopSet j := by
  obtain ⟨hpar, hsp, hsaved⟩ := hx.inFrame
  have hk : k < 13 := (List.getElem?_eq_some_iff.1 he).1
  obtain ⟨w, hholds, hunpack⟩ := hsaved k hk _ he
  obtain ⟨y, hy, hset, hothers, hframe⟩ := exec_load_windowed hr hholds hx.lcp
  have hkept : InFrame s y 13 := by
    rw [hframe]
    exact ⟨hpar, hsp, hsaved⟩
  exact ⟨y, hy, ⟨hkept, by rw [hframe, hx.lcp]⟩, by rw [hset, hunpack], hothers⟩

/-- The lines of the close envelope for set `i` restore its three registers, and no other set. -/
theorem execAll_restoreSet {s x : State} (i : Fin 4) (hx : InFrame s x 13) :
    ∃ y, execAll (.lcpSet i.val :: restoreSet (4 * (3 * i.val + 1))) x = .next y ∧ InFrame s y 13 ∧
      y.loopSet i = s.loopSet i ∧ ∀ j, j ≠ i → y.loopSet j = x.loopSet j := by
  obtain ⟨hlc, hlstk, hlpa⟩ := frameWords_set s i
  have hx0 : RestoringSet s { x with pc := x.npc, lcp := i.castSucc } i := ⟨⟨hx.par, hx.sp, hx.saved⟩, rfl⟩
  obtain ⟨x1, he1, hx1, hs1, ho1⟩ := hx0.exec (r := .lpa) rfl hlpa
  obtain ⟨x2, he2, hx2, hs2, ho2⟩ := hx1.exec (r := .lstk) rfl hlstk
  obtain ⟨x3, he3, hx3, hs3, ho3⟩ := hx2.exec (r := .lc) rfl hlc
  refine ⟨x3, ?_, hx3.inFrame, ?_, fun j hj => (ho3 j hj).trans ((ho2 j hj).trans (ho1 j hj))⟩
  · exact (execAll_cons (loopPointerImmediate i.castSucc x)).trans <| (execAll_cons he1).trans <|
      (execAll_cons he2).trans <| execAll_cons he3
  · rw [hs3, hs2, hs1]
    rfl

/-- Two states with the same four sets have the same loop registers. -/
theorem loops_eq_of_loopSet {s t : State} (h : ∀ i, t.loopSet i = s.loopSet i) : t.loops = s.loops :=
  Vector.ext fun i hi => h ⟨i, hi⟩

/-- The whole close envelope, on a saved frame. -/
theorem execAll_envelopeClose {s u : State} (hf : FrameFits s) (hu : InFrame s u 13) :
    ∃ x, execAll envelopeClose u = .next x ∧ x.loops = s.loops ∧ x.lcp = s.lcp ∧ x.sp = s.sp := by
  obtain ⟨x3, he3, hx3, hs3, ho3⟩ := execAll_restoreSet 3 hu
  obtain ⟨x2, he2, hx2, hs2, ho2⟩ := execAll_restoreSet 2 hx3
  obtain ⟨x1, he1, hx1, hs1, ho1⟩ := execAll_restoreSet 1 hx2
  obtain ⟨x0, he0, hx0, hs0, ho0⟩ := execAll_restoreSet 0 hx1
  have hloops : x0.loops = s.loops := by
    refine loops_eq_of_loopSet fun i => ?_
    fin_cases i
    · exact hs0
    · exact (ho0 1 (by decide)).trans hs1
    · exact (ho0 2 (by decide)).trans ((ho1 2 (by decide)).trans hs2)
    · exact (ho0 3 (by decide)).trans ((ho1 3 (by decide)).trans ((ho2 3 (by decide)).trans hs3))
  obtain ⟨w, hholds, hunpack⟩ := hx0.saved 0 (by decide) _ rfl
  have hval : (unpack x0.par.lcpW w).toNat = s.lcp.val := by
    have hmod : (unpack x0.par.lcpW w).toNat = s.lcp.val % 2 ^ 32 := congrArg BitVec.toNat hunpack
    omega
  obtain ⟨y, hy, hylcp, hyframe⟩ := loadLoopPointer 0 x0 w hholds (by omega)
  have hup : y.spPlus 56 = s.sp := by
    have hroom := hf.room
    have hysp : y.sp = s.sp - 56 := by rw [hyframe, hx0.sp]
    have hypar : y.par = s.par := by rw [hyframe, hx0.par]
    have hsum : (y.sp : Int) + 56 = ((s.sp : Nat) : Int) := by omega
    rw [State.spPlus, hsum, ← Int.natCast_emod, Int.toNat_natCast, hypar]
    exact Nat.mod_eq_of_lt hf.wellKept.sp
  refine ⟨{ y.advance with sp := y.spPlus 56 }, ?_, ?_, ?_, hup⟩
  · have hlines : envelopeClose = (.lcpSet 3 :: restoreSet 40) ++ ((.lcpSet 2 :: restoreSet 28) ++
        ((.lcpSet 1 :: restoreSet 16) ++ ((.lcpSet 0 :: restoreSet 4) ++ [.ldLcp 0, .spAdd 56]))) := rfl
    rw [hlines]
    exact (execAll_append he3).trans <| (execAll_append he2).trans <| (execAll_append he1).trans <|
      (execAll_append he0).trans <| (execAll_cons hy).trans <| execAll_cons rfl
  · show y.loops = s.loops
    rw [hyframe, hloops]
  · exact Fin.ext (hylcp.trans hval)

/-- Settles O27: the open envelope saves the frame, which the close envelope needs and nothing else. -/
theorem envelopeRestoresTheLoops : Obligations.EnvelopeRestoresTheLoops := by
  intro s hs hroom haligned habove hbelow
  have hf : FrameFits s := ⟨hs, hroom, haligned, habove, hbelow⟩
  obtain ⟨t, ht, hframe, hloops, hlcp⟩ := execAll_envelopeOpen hf
  refine ⟨t, ht, hframe.sp, hlcp, hloops, fun u hpar hmem hsp => execAll_envelopeClose hf ?_⟩
  refine ⟨hpar.trans hframe.par, hsp.trans hframe.sp, fun q hq e he => ?_⟩
  have hsaved := hframe.saved q hq e he
  unfold Saved SlotHolds SlotReady State.slotAddr at *
  rw [hpar, hmem, hsp]
  exact hsaved

end Sys2Proof.Machine
end

section
/-! Proofs that byte order cannot be observed (20_memory.md section 3, D20; log entry 11). -/

namespace Sys2Proof.Machine

open Claims

/-- Where the one result goes on so does the other, to states alike but for byte order. -/
def AlikeResults (r r' : Result) : Prop := ∀ t, r = .next t → ∃ t', r' = .next t' ∧ AlikeButByteOrder t t'

theorem AlikeResults.next {t t' : State} (h : AlikeButByteOrder t t') : AlikeResults (.next t) (.next t') := by
  rintro _ ⟨⟩
  exact ⟨t', rfl, h⟩

theorem AlikeResults.fault (f : Fault) (r' : Result) : AlikeResults (.fault f) r' := by
  rintro t ⟨⟩

theorem AlikeResults.ifAdmitted {r r' : Result} (h : AlikeResults r r') (i : Instr) :
    AlikeResults (ifAdmitted i r) (ifAdmitted i r') := by
  intro t ht
  obtain ⟨hd, hr⟩ := ifAdmitted_next.1 ht
  rw [ifAdmitted_of_none hd]
  exact h t hr

/-- `s` with the byte order turned and bytes `m` in data memory. -/
def State.reordered (s : State) (m : List Host.Cell) : State :=
  { s with par := { s.par with bigEndian := !s.par.bigEndian }, mem := m }

/-- Bytes `m` hold in the turned byte order what `s` holds in its own. -/
def SameSlots (s : State) (m : List Host.Cell) : Prop :=
  ∀ a, a % 4 = 0 → Memory.readSlot s.par.bigEndian s.mem a = Memory.readSlot (!s.par.bigEndian) m a

/-- A state alike another is that one reordered. -/
theorem alikeButByteOrder_iff {s s' : State} :
    AlikeButByteOrder s s' ↔ ∃ m, s' = s.reordered m ∧ SameSlots s m := by
  constructor
  · rintro ⟨hs, hslots⟩
    refine ⟨s'.mem, hs, fun a ha => ?_⟩
    rw [hslots a ha, hs]
  · rintro ⟨m, rfl, hslots⟩
    exact ⟨rfl, hslots⟩

/-- Both name the same loop register set, or none. -/
theorem alikeResults_withWindow {s : State} (m : List Host.Cell) {k k' : Fin 4 → Result}
    (hk : ∀ i, AlikeResults (k i) (k' i)) : AlikeResults (s.withWindow k) ((s.reordered m).withWindow k') := by
  intro t ht
  obtain ⟨i, hi, hki⟩ := State.withWindow_next.1 ht
  obtain ⟨t', ht', halike⟩ := hk i t hki
  exact ⟨t', State.withWindow_next.2 ⟨i, hi, ht'⟩, halike⟩

section

variable {s : State} {m : List Host.Cell} (hm : SameSlots s m)
include hm

/-- States with the parameters and data memory of two that are alike are alike, where nothing else differs. -/
theorem alike_of_eq {t : State} (hpar : t.par = s.par) (hmem : t.mem = s.mem) :
    AlikeButByteOrder t (t.reordered m) := by
  refine alikeButByteOrder_iff.2 ⟨m, rfl, fun a ha => ?_⟩
  rw [hpar, hmem]
  exact hm a ha

/-- A load reads one aligned slot, which holds the same value in both. -/
theorem alikeResults_loadAt {o : Nat} {k k' : Word → Result} (hk : ∀ w, AlikeResults (k w) (k' w)) :
    AlikeResults (s.loadAt o k) ((s.reordered m).loadAt o k') := by
  intro t ht
  obtain ⟨w, ha, hw, hkw⟩ := State.loadAt_next.1 ht
  obtain ⟨t', ht', halike⟩ := hk w t hkw
  rw [hm _ (Params.slotAdmitted_iff.1 ha).1] at hw
  exact ⟨t', State.loadAt_next.2 ⟨w, ha, hw, ht'⟩, halike⟩

/-- A store writes one aligned slot, with the same value in both. -/
theorem alikeResults_storeAt (o width : Nat) (v : Word) :
    AlikeResults (s.storeAt o width v) ((s.reordered m).storeAt o width v) := by
  intro t ht
  obtain ⟨ha, rfl⟩ := State.storeAt_next.1 ht
  have halign : s.slotAddr o % 4 = 0 := (Params.slotAdmitted_iff.1 ha).1
  refine ⟨_, State.storeAt_next.2 ⟨ha, rfl⟩, alikeButByteOrder_iff.2 ⟨_, rfl, fun a h4 => ?_⟩⟩
  by_cases hne : a = s.slotAddr o
  · rw [hne]
    exact (Memory.readSlot_writeSlot_self ..).trans (Memory.readSlot_writeSlot_self ..).symm
  · exact (Memory.readSlot_writeSlot_other _ _ halign h4 hne _).trans <|
      (hm a h4).trans (Memory.readSlot_writeSlot_other _ _ halign h4 hne _).symm

/-- A software interrupt does not look at data memory. -/
theorem alike_softwareInterrupt (v : Nat) :
    AlikeButByteOrder (s.softwareInterrupt v) ((s.reordered m).softwareInterrupt v) := by
  have hturn : (s.reordered m).softwareInterrupt v = (s.softwareInterrupt v).reordered m := by
    unfold State.softwareInterrupt State.sintAck State.softwareEntry
    cases hp : s.par.sintPulsesIack <;> by_cases hv : v = 0 ∧ s.par.irq0FullEntry = false <;>
      simp [State.reordered, hp, hv] <;> rfl
  rw [hturn]
  refine alike_of_eq hm ?_ ?_ <;> rw [State.softwareInterrupt_eq]
  · obtain h | h := s.softwareEntry_cases v <;> simp [h]
  · obtain h | h := s.softwareEntry_cases v <;> simp [h]

/-- Each instruction, alike on both: what it does to the registers does not look at data memory, and a store or a load
looks at one slot. -/
theorem exec_alike (i : Instr) : AlikeResults (exec i s) (exec i (s.reordered m)) := by
  have go {t : State} (hpar : t.par = s.par) (hmem : t.mem = s.mem) : AlikeResults (.next t) (.next (t.reordered m)) :=
    .next (alike_of_eq hm hpar hmem)
  cases i with
  | jp T =>
    rw [exec_jp, exec_jp]
    by_cases hT : Params.inProgramMemory s.par T = true
    · rw [if_pos hT, if_pos (show Params.inProgramMemory (s.reordered m).par T = true from hT)]
      exact go rfl rfl
    · rw [if_neg hT]
      exact .fault _ _
  | sint v => exact .ifAdmitted (.next (alike_softwareInterrupt hm v)) _
  | ieSet | imskSet | lcpSet =>
    refine .ifAdmitted ?_ _
    exact go rfl rfl
  | nop | reti | setInterruptMask | getInterruptMask | getIrqStat | spAdd | powerdown => exact go rfl rfl
  | stLcp o | stSr o | stIlr o => exact .ifAdmitted (alikeResults_storeAt hm o _ _) _
  | stLc o | stLstk o | stLpa o =>
    exact .ifAdmitted (alikeResults_withWindow m fun i => alikeResults_storeAt hm o _ _) _
  | ldLcp o =>
    refine .ifAdmitted (alikeResults_loadAt hm fun w => ?_) _
    by_cases hw : (unpack s.par.lcpW w).toNat < 5
    · rw [dif_pos hw, dif_pos (show (unpack (s.reordered m).par.lcpW w).toNat < 5 from hw)]
      exact go rfl rfl
    · rw [dif_neg hw]
      exact .fault _ _
  | ldLc o | ldLstk o | ldLpa o =>
    refine .ifAdmitted (alikeResults_withWindow m fun i => alikeResults_loadAt hm fun w => ?_) _
    exact go rfl rfl
  | ldSr o | ldIlr o =>
    refine .ifAdmitted (alikeResults_loadAt hm fun w => ?_) _
    exact go rfl rfl

end

/-- Settles O54: the one state is the other reordered. -/
theorem byteOrderIsUnobservable : Obligations.ByteOrderIsUnobservable := by
  intro i s s' t halike h
  obtain ⟨m, rfl, hm⟩ := alikeButByteOrder_iff.1 halike
  exact exec_alike hm i t h

end Sys2Proof.Machine
end
